-- ==== Sys2Proof/Word.lean ====
section
/-! DEFINITION. The block's word widths (00_scope.md R7, R9): all values are unsigned, bit 0 is the least significant. -/

namespace Sys2Proof

/-- DATA_W: the payload of a Write and the data of a Read (R7). -/
abbrev Word := BitVec 32

/-- HEADER_W: the request header (R7). -/
abbrev Byte := BitVec 8

/-- INDEX_W: the register index as the block holds it (R7, R22). -/
abbrev Index := BitVec 2

/-- ACK_W: the acknowledgment field (R7). -/
abbrev AckBits := BitVec 3

end Sys2Proof
end

