-- ==== Sys2Proof/Syntax.lean ====
section
/-! DEFINITION. The instructions: one constructor for each row of spec/opcode_table.json (30_encoding.md R83, R89, R92). -/

namespace Sys2Proof

/-- `REQ.dir` (10_state.md R24). -/
inductive Direction where
  | write
  | read
deriving DecidableEq, Repr

/-- The value of header bit RnW: Read = 1, Write = 0 (R24, 40_request_codec.md R113). -/
def Direction.toBit : Direction → Bool
  | .write => false
  | .read => true

/-- The rows of the opcode table.
The sixteen `HDR8` rows are the sixteen headers; a Write carries its payload beside the header (R85).
The four `HDR8-generic` rows are the request kinds as the caller presents them to `BuildRequest`: any `register_index`, and a
payload offered or not (R92, 40_request_codec.md R110, R111, R119; log 4).
The eight `ACK3` rows are the ack patterns, run by the CLASSIFY phase (42_parity_and_response.md R184; log 5). -/
inductive Instr where
  | rdDp0 | rdDp1 | rdDp2 | rdDp3
  | rdAp0 | rdAp1 | rdAp2 | rdAp3
  | wrDp0 (payload : Word) | wrDp1 (payload : Word) | wrDp2 (payload : Word) | wrDp3 (payload : Word)
  | wrAp0 (payload : Word) | wrAp1 (payload : Word) | wrAp2 (payload : Word) | wrAp3 (payload : Word)
  | rdDp (index : Nat) (payload : Option Word)
  | rdAp (index : Nat) (payload : Option Word)
  | wrDp (index : Nat) (payload : Option Word)
  | wrAp (index : Nat) (payload : Option Word)
  | ackInvalid0 | ackAck | ackWait | ackInvalid3 | ackFault | ackInvalid5 | ackInvalid6 | ackInvalid7
deriving DecidableEq, Repr

end Sys2Proof
end

