-- ==== Sys2Proof/Decode.lean ====
section
/-! DEFINITION. The header codec (40_request_codec.md R112 to R118), the decoder (30_encoding.md R84, R89) and the encoder
(R81, R83, R89).

A coded request is its header byte and then, for a Write, the four bytes of the payload, low byte first. The spec gives a request
no instruction word beyond the header; this layout is a DESIGN CHOICE (log 3) that follows the frame's order (R86). -/

namespace Sys2Proof

/-- Why bytes are no instruction. -/
inductive DecodeError where
  /-- No byte was handed over. -/
  | nothing
  /-- The byte is neither one of the 16 headers nor an ack pattern (R84, R91, U14). -/
  | notAHeader (h : Byte)
  /-- A Write header without the four bytes of its payload (R119). -/
  | missingPayload (h : Byte)
deriving DecidableEq, Repr

/-- Header bit 5: `popcount(bits 1..4) mod 2` (R116), as the XOR of APnDP, RnW, A2 and A3. -/
def headerParity (idx : Index) (ap : Bool) (dir : Direction) : Bool :=
  ap ^^ dir.toBit ^^ idx.getLsbD 0 ^^ idx.getLsbD 1

/-- `Header(idx, a, r)` in the closed form of R118. -/
def headerOf (idx : Index) (ap : Bool) (dir : Direction) : Byte :=
  BitVec.ofNat 8 (1 + 2 * ap.toNat + 4 * dir.toBit.toNat + 8 * (idx.getLsbD 0).toNat + 16 * (idx.getLsbD 1).toNat
    + 32 * (headerParity idx ap dir).toNat + 0 * 64 + 128)

/-- R84: `h & 0xC1 = 0x81` and `h[5] = h[1] xor h[2] xor h[3] xor h[4]`. -/
def isHeader (h : Byte) : Bool :=
  h &&& 0xC1#8 == 0x81#8 && (h.getLsbD 5 == (h.getLsbD 1 ^^ h.getLsbD 2 ^^ h.getLsbD 3 ^^ h.getLsbD 4))

/-- R84: `ap = h[1]`. -/
def headerAp (h : Byte) : Bool := h.getLsbD 1

/-- R84: `dir = Read if h[2] = 1 else Write`. -/
def headerDir (h : Byte) : Direction := if h.getLsbD 2 then .read else .write

/-- R84: `idx = 2*h[4] + h[3]`. -/
def headerIdx (h : Byte) : Index := BitVec.ofNat 2 (2 * (h.getLsbD 4).toNat + (h.getLsbD 3).toNat)

/-- The instruction of an exact Read header (R83). -/
def readInstr (idx : Index) (ap : Bool) : Instr :=
  match ap, idx.toNat with
  | false, 0 => .rdDp0
  | false, 1 => .rdDp1
  | false, 2 => .rdDp2
  | false, _ => .rdDp3
  | true, 0 => .rdAp0
  | true, 1 => .rdAp1
  | true, 2 => .rdAp2
  | true, _ => .rdAp3

/-- The instruction of an exact Write header (R83). -/
def writeInstr (idx : Index) (ap : Bool) (payload : Word) : Instr :=
  match ap, idx.toNat with
  | false, 0 => .wrDp0 payload
  | false, 1 => .wrDp1 payload
  | false, 2 => .wrDp2 payload
  | false, _ => .wrDp3 payload
  | true, 0 => .wrAp0 payload
  | true, 1 => .wrAp1 payload
  | true, 2 => .wrAp2 payload
  | true, _ => .wrAp3 payload

/-- The instruction of a 3-bit ack pattern (R89, R184). -/
def ackInstr (a : AckBits) : Instr :=
  match a.toNat with
  | 0 => .ackInvalid0
  | 1 => .ackAck
  | 2 => .ackWait
  | 3 => .ackInvalid3
  | 4 => .ackFault
  | 5 => .ackInvalid5
  | 6 => .ackInvalid6
  | _ => .ackInvalid7

/-- `register_index mod 4`: only the low two bits are meaningful (R111). -/
def maskIndex (registerIndex : Nat) : Index := BitVec.ofNat 2 registerIndex

/-- A payload from its four bytes, low byte first (log 3). -/
def payloadOfBytes (b0 b1 b2 b3 : Byte) : Word := b3 ++ b2 ++ b1 ++ b0

/-- The four bytes of a payload, low byte first (log 3). -/
def payloadBytes (w : Word) : List Byte :=
  [w.extractLsb' 0 8, w.extractLsb' 8 8, w.extractLsb' 16 8, w.extractLsb' 24 8]

/-- The payload at the front of a byte list, with the bytes it leaves; none where four bytes are not there. -/
def takePayload : List Byte → Option (Word × List Byte)
  | b0 :: b1 :: b2 :: b3 :: rest => some (payloadOfBytes b0 b1 b2 b3, rest)
  | [_, _, _] => none
  | [_, _] => none
  | [_] => none
  | [] => none

/-- The instruction at the front of a byte list, with the bytes it leaves. Total: what is no instruction is rejected by name. -/
def decode : List Byte → Except DecodeError (Instr × List Byte)
  | [] => .error .nothing
  | h :: rest =>
    if isHeader h then
      match headerDir h with
      | .read => .ok (readInstr (headerIdx h) (headerAp h), rest)
      | .write =>
        match takePayload rest with
        | some (w, rest') => .ok (writeInstr (headerIdx h) (headerAp h) w, rest')
        | none => .error (.missingPayload h)
    else if h.toNat < 8 then .ok (ackInstr (BitVec.ofNat 3 h.toNat), rest)
    else .error (.notAHeader h)

/-- The coded form of an instruction, from the table of R83 (the sixteen headers), the closed form of R118 (the generic rows, whose
payload, if they are Writes, must be there) and the codes of R89. -/
def encode : Instr → List Byte
  | .rdDp0 => [165#8]
  | .rdDp1 => [141#8]
  | .rdDp2 => [149#8]
  | .rdDp3 => [189#8]
  | .rdAp0 => [135#8]
  | .rdAp1 => [175#8]
  | .rdAp2 => [183#8]
  | .rdAp3 => [159#8]
  | .wrDp0 w => 129#8 :: payloadBytes w
  | .wrDp1 w => 169#8 :: payloadBytes w
  | .wrDp2 w => 177#8 :: payloadBytes w
  | .wrDp3 w => 153#8 :: payloadBytes w
  | .wrAp0 w => 163#8 :: payloadBytes w
  | .wrAp1 w => 139#8 :: payloadBytes w
  | .wrAp2 w => 147#8 :: payloadBytes w
  | .wrAp3 w => 187#8 :: payloadBytes w
  | .rdDp i _ => [headerOf (maskIndex i) false .read]
  | .rdAp i _ => [headerOf (maskIndex i) true .read]
  | .wrDp i p => headerOf (maskIndex i) false .write :: (p.map payloadBytes).getD []
  | .wrAp i p => headerOf (maskIndex i) true .write :: (p.map payloadBytes).getD []
  | .ackInvalid0 => [0#8]
  | .ackAck => [1#8]
  | .ackWait => [2#8]
  | .ackInvalid3 => [3#8]
  | .ackFault => [4#8]
  | .ackInvalid5 => [5#8]
  | .ackInvalid6 => [6#8]
  | .ackInvalid7 => [7#8]

/-- The exact row a generic row stands for (R92, R111; log 4); every other instruction is itself. A generic Write without a payload
is no Request (R119) and stays as it is. -/
def Instr.exact : Instr → Instr
  | .rdDp0 => .rdDp0
  | .rdDp1 => .rdDp1
  | .rdDp2 => .rdDp2
  | .rdDp3 => .rdDp3
  | .rdAp0 => .rdAp0
  | .rdAp1 => .rdAp1
  | .rdAp2 => .rdAp2
  | .rdAp3 => .rdAp3
  | .wrDp0 w => .wrDp0 w
  | .wrDp1 w => .wrDp1 w
  | .wrDp2 w => .wrDp2 w
  | .wrDp3 w => .wrDp3 w
  | .wrAp0 w => .wrAp0 w
  | .wrAp1 w => .wrAp1 w
  | .wrAp2 w => .wrAp2 w
  | .wrAp3 w => .wrAp3 w
  | .rdDp i _ => readInstr (maskIndex i) false
  | .rdAp i _ => readInstr (maskIndex i) true
  | .wrDp i none => .wrDp i none
  | .wrDp i (some w) => writeInstr (maskIndex i) false w
  | .wrAp i none => .wrAp i none
  | .wrAp i (some w) => writeInstr (maskIndex i) true w
  | .ackInvalid0 => .ackInvalid0
  | .ackAck => .ackAck
  | .ackWait => .ackWait
  | .ackInvalid3 => .ackInvalid3
  | .ackFault => .ackFault
  | .ackInvalid5 => .ackInvalid5
  | .ackInvalid6 => .ackInvalid6
  | .ackInvalid7 => .ackInvalid7

/-- The ack pattern an `ACK3` row stands for, none for a request. -/
def Instr.ackPattern : Instr → Option AckBits
  | .ackInvalid0 => some 0#3
  | .ackAck => some 1#3
  | .ackWait => some 2#3
  | .ackInvalid3 => some 3#3
  | .ackFault => some 4#3
  | .ackInvalid5 => some 5#3
  | .ackInvalid6 => some 6#3
  | .ackInvalid7 => some 7#3
  | .rdDp0 => none
  | .rdDp1 => none
  | .rdDp2 => none
  | .rdDp3 => none
  | .rdAp0 => none
  | .rdAp1 => none
  | .rdAp2 => none
  | .rdAp3 => none
  | .wrDp0 _ => none
  | .wrDp1 _ => none
  | .wrDp2 _ => none
  | .wrDp3 _ => none
  | .wrAp0 _ => none
  | .wrAp1 _ => none
  | .wrAp2 _ => none
  | .wrAp3 _ => none
  | .rdDp _ _ => none
  | .rdAp _ _ => none
  | .wrDp _ _ => none
  | .wrAp _ _ => none

/-- The bytes of a table word: its low `nbits` bits, the first byte the least significant, up to the longest instruction (5 bytes). -/
def tableBytes (nbits w : Nat) : List Byte :=
  [0, 1, 2, 3, 4].map fun k => BitVec.ofNat 8 (w % 2 ^ nbits / 2 ^ (8 * k))

/-- The instruction the decoder reads from a word numbered as spec/opcode_table.json numbers it. -/
def decodeTableWord (nbits w : Nat) : Option Instr :=
  match decode (tableBytes nbits w) with
  | .ok (i, _) => some i
  | .error _ => none

end Sys2Proof
end

