-- ==== Sys2Proof/Config.lean ====
section
/-! DEFINITION. The static parameters of 00_scope.md R7 and R8, and the values the spec leaves open. -/

namespace Sys2Proof

/-- A failure value of the transport: the opaque type `E` of R8 and R30, "propagated unchanged". The block never looks inside it.
DESIGN CHOICE (log 11): a numbered token, so that states can be compared. -/
structure TransportFailure where
  tag : Nat
deriving DecidableEq, Repr, Inhabited

/-- RESERVED_FILL (R8): what is queued for reserved, don't-care-to-drive bits. The spec's decision D4, log 13. -/
def Config.reservedFill : Nat := 0

/-- ACK_W (R7). -/
def Config.ackWidth : Nat := 3

/-- HEADER_W (R7). -/
def Config.headerWidth : Nat := 8

/-- DATA_W (R7). -/
def Config.dataWidth : Nat := 32

/-- PAR_W (R7). -/
def Config.parWidth : Nat := 1

/-- FRAME_W (R7): the positions one transaction appends. -/
def Config.frameWidth : Nat := 44

/-- FREE VALUE (20_memory.md R67, U9; log 9): the bit the wire returns at a position, once no scripted bit is left. -/
opaque Config.wireBit : Nat → Bool

/-- FREE VALUE (20_memory.md R57, D17; log 12): the failure of a capture, at this offset and of this width, of positions never queued. -/
opaque Config.unqueuedCapture : Nat → Nat → TransportFailure

/-- FREE VALUE (20_memory.md R66, 93_implementation_defined.md U5; log 12): how many pending positions such a capture, at this offset and
of this width, has clocked when so many were clocked before. -/
opaque Config.unqueuedClocked : Nat → Nat → Nat → Nat

/-- FREE VALUE behind `Config.statusInvalidCode`. -/
opaque Config.freeInvalidCode : Nat

/-- STATUS_INVALID_CODE (R8, 42_parity_and_response.md R189, D12; log 14): left open, but different from 1, 2 and 4. -/
def Config.statusInvalidCode : Nat :=
  if Config.freeInvalidCode = 1 ∨ Config.freeInvalidCode = 2 ∨ Config.freeInvalidCode = 4 then Config.freeInvalidCode + 4
  else Config.freeInvalidCode

end Sys2Proof
end

