-- ==== Sys2Proof/Machine/State.lean ====
section
/-! DEFINITION. The machine's state as plain data (10_state.md R20 to R38), the transport and its environment (20_memory.md R51,
R66 to R68), the caller (60_exceptions.md R214), and the reasons a step stops. -/

namespace Sys2Proof.Machine

/-- REQ: one built Request, "immutable once built" (R21 to R26). `payload` is present only for a Write (R25). -/
structure Request where
  idx : Index
  ap : Bool
  dir : Direction
  payload : Option Word
  header : Byte
deriving DecidableEq, Repr

/-- `ENG.phase`, the block's program counter (R27). -/
inductive Phase where
  | idle | qHdr | qAck | qData | qPar | cAck | cData | cPar | classify | done | failed
deriving DecidableEq, Repr

/-- `Response.status` (R31): an enumeration with no numbers (42_parity_and_response.md R189). -/
inductive Status where
  | ack | wait | fault | invalid
deriving DecidableEq, Repr

/-- The Response (R31); `data` is absent for a Write (D8). -/
structure Response where
  status : Status
  data : Option Word
deriving DecidableEq, Repr

/-- The engine latches ENG (R27 to R30). `none` is the spec's "no value" (R38, log 6). -/
structure Engine where
  phase : Phase
  ackOff : Option Nat
  ack : Option AckBits
  data : Option Word
  par : Option Bool
  err : Option TransportFailure
deriving DecidableEq, Repr

/-- ENG with no value in any latch but the phase (R38). -/
def Engine.empty : Engine :=
  { phase := .idle, ackOff := none, ack := none, data := none, par := none, err := none }

/-- The transport's bit buffer (20_memory.md R51): `out` is `TR.out`, `shifted` is `TR.in`, both indexed by bit offset from 0.
Each sequence is its own canonical form (log 25). -/
structure Memory where
  out : List Bool
  shifted : List Bool
deriving DecidableEq, Repr

/-- `TR.clocked`, the length of `TR.in` (R51). -/
abbrev Memory.clocked (m : Memory) : Nat := m.shifted.length

/-- `TR.clocked <= length(TR.out)` (R51). -/
def Memory.wf (m : Memory) : Bool := decide (m.shifted.length ≤ m.out.length)

/-- What the wire returns (R67): scripted bits and then free ones, or the loopback transport of R68 (log 9). -/
inductive Wire where
  | bits (script : List Bool)
  | loopback
deriving DecidableEq, Repr

/-- What the environment answers to one transport call (00_scope.md R13 (c), R66, R246; log 8, log 10). -/
inductive Answer where
  /-- The call returns its result. -/
  | returns
  /-- The call fails with `e`. A failed `Queue` may have gained bits, a failed `Capture` may have clocked positions (U5). -/
  | fails (e : TransportFailure) (gained : List Bool) (clocked : Nat)
  /-- The call has not returned yet: the engine stays in its phase (R246). Meanwhile a `Queue` has placed `queued` more of its bits, a
  `Capture` has clocked `clocked` more positions (none, part or all: R231; log 29). -/
  | pending (queued : Nat) (clocked : Nat)
deriving DecidableEq, Repr

/-- How far a transport call that has not returned has come (R60, R231, R246; log 29): how many of its bits a `Queue` has placed, and
whether a `Capture` is clocking the bus. -/
structure Progress where
  queued : Nat := 0
  clocking : Bool := false
deriving DecidableEq, Repr

/-- No call is under way. -/
def Progress.none : Progress := { queued := 0, clocking := false }

/-- The transport and what is behind it. `wire` and `answers` are the model's own fields: the coming inputs. `progress` is what the
transport has done of the call under way. -/
structure Transport where
  mem : Memory
  wire : Wire
  answers : List Answer
  progress : Progress := Progress.none
deriving DecidableEq, Repr

/-- What the caller may do (60_exceptions.md R214; 70_reset_and_hazards.md R231; log 2). -/
inductive Command where
  /-- Hand over one request in coded form (log 3) and `send` it. -/
  | word (bytes : List Byte)
  /-- Build a Request from the four values of 40_request_codec.md R110 and `send` it. -/
  | request (registerIndex : Nat) (accessPort : Bool) (direction : Direction) (payload : Option Word)
  /-- Build a Request only (R110). -/
  | build (registerIndex : Nat) (accessPort : Bool) (direction : Direction) (payload : Option Word)
  /-- `send` the built Request, again if it was sent before (R121). -/
  | send
  /-- Take the result (41_transaction_engine.md R144 (c)). -/
  | take
  /-- Reset the block (R231, log 20). -/
  | reset
  /-- Call the transport's `Queue` between sends (R50, 60_exceptions.md R211; log 19). -/
  | queue (value : Nat) (width : Nat)
  /-- Call the transport's `Capture` between sends. -/
  | capture (offset : Nat) (width : Nat)
deriving DecidableEq, Repr

/-- What the caller has been handed. -/
inductive Delivery where
  | response (r : Response)
  | transportError (e : TransportFailure)
  | offset (off : Nat)
  | value (v : Nat)
deriving DecidableEq, Repr

/-- The caller: what it does next, and what it has been handed, in order (the model's own fields; log 2, log 16). -/
structure Caller where
  commands : List Command
  received : List Delivery
deriving DecidableEq, Repr

/-- The machine: the block (REQ, ENG, Response: R20), the transport, the caller. -/
structure State where
  req : Option Request
  eng : Engine
  response : Option Response
  tr : Transport
  caller : Caller
deriving DecidableEq, Repr

/-- The latches whose "no value" can be met by a read (R38). -/
inductive Latch where
  | req | payload | ackOff | ack | data | par | err | response
deriving DecidableEq, Repr

/-- Why a run stops. -/
inductive Fault where
  /-- Raised by `step` in FAILED when the caller does not take the failure (R206, R221; log 15). Safe: the run stops. -/
  | transportError (e : TransportFailure)
  /-- Raised by any phase, and by taking a result, when it reads a latch that holds no value: R38 and the spec's decision D11 call that
  read "a fault of the model, not a zero". Safe; no run meets it. -/
  | unwrittenLatch (l : Latch)
deriving DecidableEq, Repr

/-- What the machine gives no meaning. -/
inductive Refusal where
  /-- Raised by an arm of `exec` whose instruction has no meaning yet. None is left. Safe. -/
  | notModelled (mnemonic : String)
  /-- Raised at construction: a Write without a payload is not a Request (40_request_codec.md R119, R207, R221). Safe. -/
  | writeWithoutPayload
  /-- Raised at the hand-off: the bytes are none of the 16 headers (30_encoding.md R84, R91, U14). Safe. -/
  | notAHeader
  /-- Raised by `send` when no Request has been built (41_transaction_engine.md R141). Safe. -/
  | noRequestBuilt
  /-- Raised by a request when the engine is not IDLE (20_memory.md R63, R211). Safe; `step` never meets it. -/
  | transactionInProgress
  /-- Raised by an ack pattern when the engine is not in CLASSIFY (R143). Safe; `step` never meets it. -/
  | notClassifying
  /-- Raised when the caller takes a result and none is presented (R214). Safe. -/
  | nothingToTake
deriving DecidableEq, Repr

/-- The machine after reset: `ENG.phase` is IDLE, no latch holds a value, no Response is presented (R38, R230). The transport is not
the block's (R232): its empty buffer, and the empty lists of coming inputs and commands, are the model's choice (log 7, 8, 9, 2, 16). -/
def State.reset : State :=
  { req := none
    eng := Engine.empty
    response := none
    tr := { mem := { out := [], shifted := [] }, wire := .bits [], answers := [], progress := Progress.none }
    caller := { commands := [], received := [] } }

end Sys2Proof.Machine
end

