-- ==== Sys2Proof/Machine/Flags.lean ====
section
/-! DEFINITION. The block's flags and arithmetic: parity (42_parity_and_response.md R180, R183), the ack decode (R184), the
classification (R186, R187) and the numeric status codes (R189). -/

namespace Sys2Proof.Machine

/-- The `width` low bits of `value`, bit 0 first (20_memory.md R52, R53). -/
def bitsOf (value : Nat) (width : Nat) : List Bool :=
  (List.range width).map fun i => value.testBit i

/-- The value of a list of bits, the first with weight 1 (20_memory.md R53, R55). -/
def valueOf : List Bool → Nat
  | [] => 0
  | b :: bs => b.toNat + 2 * valueOf bs

/-- "number of set bits in a binary value" (00_scope.md R12). -/
def popcount (bits : List Bool) : Nat := bits.count true

/-- `parity_32(d) = popcount(d) mod 2` (R180). -/
def parity32 (d : Word) : Bool := popcount (bitsOf d.toNat Config.dataWidth) % 2 == 1

/-- The read check (R183): the received word and its received parity bit disagree. -/
def mismatch (data : Word) (par : Bool) : Bool := parity32 data != par

/-- `decode_ack` (R184, R89): the three one-hot patterns, anything else INVALID. -/
def decodeAck (a : AckBits) : Status :=
  match a.toNat with
  | 1 => .ack
  | 2 => .wait
  | 4 => .fault
  | _ => .invalid

/-- The status of a Read whose ack decoded to `s`: a mismatch overrides ACK, and nothing else (R186, R209). -/
def readStatus (s : Status) (data : Word) (par : Bool) : Status :=
  match s with
  | .ack => if mismatch data par then .invalid else .ack
  | .wait => .wait
  | .fault => .fault
  | .invalid => .invalid

/-- `Classify_Read` (R186): the captured word is presented in every case (D8). -/
def classifyRead (a : AckBits) (data : Word) (par : Bool) : Response :=
  { status := readStatus (decodeAck a) data par, data := some data }

/-- `Classify_Write` (R187): the ack alone, no data. -/
def classifyWrite (a : AckBits) : Response :=
  { status := decodeAck a, data := none }

/-- The numeric status codes, where numbers are wanted (R189, log 14). -/
def statusCode : Status → Nat
  | .ack => 1
  | .wait => 2
  | .fault => 4
  | .invalid => Config.statusInvalidCode

end Sys2Proof.Machine
end

