-- ==== Sys2Proof/Machine/Operands.lean ====
section
/-! DEFINITION. Building a Request from the operands a caller presents (40_request_codec.md R110, R111, R119), and the operands of the
data phase (41_transaction_engine.md R150, R151). -/

namespace Sys2Proof.Machine

/-- `BuildRequest` (R110): the index is reduced modulo 4 (R111), the header is computed here, once (R121). A Write without a payload
is not a Request; a payload offered with a Read is dropped (R119). -/
def buildRequest (registerIndex : Nat) (accessPort : Bool) (direction : Direction) (payload : Option Word) : Option Request :=
  let idx := maskIndex registerIndex
  match direction, payload with
  | .read, _ =>
    some { idx := idx, ap := accessPort, dir := .read, payload := none, header := headerOf idx accessPort .read }
  | .write, some w =>
    some { idx := idx, ap := accessPort, dir := .write, payload := some w, header := headerOf idx accessPort .write }
  | .write, none => none

/-- What the data phase queues: `RESERVED_FILL` twice for a Read (R150), the payload and its parity for a Write (R151). None when a
Write's payload latch holds no value. -/
def dataPhaseValues (r : Request) : Option (Nat × Nat) :=
  match r.dir, r.payload with
  | .read, _ => some (Config.reservedFill, Config.reservedFill)
  | .write, some w => some (w.toNat, (parity32 w).toNat)
  | .write, none => none

/-- A captured value as the ack latch holds it. -/
def ackOfValue (v : Nat) : AckBits := BitVec.ofNat 3 v

/-- A captured value as the data latch holds it. -/
def dataOfValue (v : Nat) : Word := BitVec.ofNat 32 v

/-- A captured value as the parity latch holds it. -/
def parOfValue (v : Nat) : Bool := v.testBit 0

/-- The offset of the data word: `ack_off + 3` (R152). -/
def dataOffset (ackOff : Nat) : Nat := ackOff + Config.ackWidth

/-- The offset of the parity bit: `ack_off + 3 + 32` (R152). -/
def parOffset (ackOff : Nat) : Nat := ackOff + Config.ackWidth + Config.dataWidth

end Sys2Proof.Machine
end

