-- ==== Sys2Proof/Machine/Ops.lean ====
section
/-! DEFINITION. The named operations over the transport buffer and the latches: `Queue` and `Capture` of the reference transport
(20_memory.md R51 to R57, R66 to R68), starting a transaction (R145), TAKING A TRANSPORT FAILURE (60_exceptions.md R206) and the
return to IDLE beside it (R144 (c), R157), and the reset of the block (R231). -/

namespace Sys2Proof.Machine

/-- What one transport call comes to, with the transport after it. -/
inductive CallResult where
  | returned (value : Nat) (t : Transport)
  | failed (e : TransportFailure) (t : Transport)
  | waiting (t : Transport)
deriving DecidableEq, Repr

/-- The environment's answer to the next call: while it has given none, the call has not returned (R246, log 8). -/
def Transport.poll (t : Transport) : Answer × Transport :=
  match t.answers with
  | [] => (.pending 0 0, t)
  | a :: rest => (a, { t with answers := rest })

/-- `TR.out` extended by bits (R52). -/
def Memory.append (m : Memory) (bits : List Bool) : Memory := { m with out := m.out ++ bits }

/-- The bit at an offset of `TR.in`, none where nothing has been shifted in. -/
def Memory.readIn (m : Memory) (off : Nat) : Option Bool := m.shifted[off]?

/-- The bit at an offset of `TR.out`, none where nothing has been queued. -/
def Memory.readOut (m : Memory) (off : Nat) : Option Bool := m.out[off]?

/-- The bits queued and not yet clocked, in offset order. -/
def Memory.unclocked (m : Memory) : List Bool := m.out.drop m.shifted.length

/-- `sum over i of TR.in[off + i] * 2^i` (R55). -/
def Memory.valueAt (m : Memory) (off width : Nat) : Nat := valueOf ((m.shifted.drop off).take width)

/-- The bits the wire returns while the bits `driven` go out from position `pos` on, and the wire after them: on a loopback the bits
themselves (R68), else the scripted bits and, when there is none left, free ones (R67, U9; log 9). -/
def Wire.shiftIn : Wire → List Bool → Nat → List Bool × Wire
  | w, [], _ => ([], w)
  | .loopback, b :: driven, pos =>
    let (got, w) := Wire.shiftIn .loopback driven (pos + 1)
    (b :: got, w)
  | .bits [], _ :: driven, pos =>
    let (got, w) := Wire.shiftIn (.bits []) driven (pos + 1)
    (Config.wireBit pos :: got, w)
  | .bits (x :: script), _ :: driven, pos =>
    let (got, w) := Wire.shiftIn (.bits script) driven (pos + 1)
    (x :: got, w)

/-- Clocks the first `count` positions that are queued and not yet clocked (R56; all of them in a call that returns). -/
def Transport.clock (count : Nat) (t : Transport) : Transport :=
  let (got, w) := t.wire.shiftIn (t.mem.unclocked.take count) t.mem.shifted.length
  { t with mem := { t.mem with shifted := t.mem.shifted ++ got }, wire := w }

/-- Brings the bus up to date for a capture that ends before `limit`: if `TR.clocked < limit`, every pending position is clocked
(R56, D6; log 23), also for a capture that has begun to clock while it was waiting (log 29). -/
def Transport.sync (limit : Nat) (t : Transport) : Transport :=
  if t.progress.clocking = true ∨ t.mem.shifted.length < limit then t.clock t.mem.unclocked.length else t

/-- The call is over: nothing is under way any more. -/
def Transport.settled (t : Transport) : Transport := { t with progress := Progress.none }

/-- A `Queue` of `bits` that is waiting places `more` of those that are left, in order (log 29). -/
def Transport.queueSome (bits : List Bool) (more : Nat) (t : Transport) : Transport :=
  let placed := (bits.drop t.progress.queued).take more
  { t with mem := t.mem.append placed, progress := { t.progress with queued := t.progress.queued + placed.length } }

/-- A `Capture` that ends before `limit` and is waiting clocks `more` of the pending positions, in order, if it has any to clock
(R56; log 29). -/
def Transport.clockSome (limit more : Nat) (t : Transport) : Transport :=
  if t.progress.clocking = true ∨ t.mem.shifted.length < limit then
    { t.clock more with progress := { t.progress with clocking := t.progress.clocking || more != 0 } }
  else t

/-- `Queue(v, n) -> off` (R52, R53): the `n` low bits of `v`, bit 0 first, at the end of the buffer. A failed call may have gained
any bits, at most `n` in all (U5, log 10). While the call has not returned some of its bits may be there already, and no bit is placed
twice (log 29). -/
def queueCall (v n : Nat) (t : Transport) : CallResult :=
  match t.poll with
  | (.returns, t) =>
    .returned (t.mem.out.length - t.progress.queued)
      (Transport.settled { t with mem := t.mem.append ((bitsOf v n).drop t.progress.queued) })
  | (.fails e gained _, t) =>
    .failed e (Transport.settled { t with mem := t.mem.append (gained.take (n - t.progress.queued)) })
  | (.pending queued _, t) => .waiting (t.queueSome (bitsOf v n) queued)

/-- `Capture(off, n) -> v` (R55, R56). A capture of a position never queued fails (R57, log 12). A failed call, that one too, may have
clocked any of the pending positions, in order (U5, log 10, log 12). So may one that has not returned yet (log 29). -/
def captureCall (off n : Nat) (t : Transport) : CallResult :=
  match t.poll with
  | (.returns, t) =>
    if t.mem.out.length < off + n then
      .failed (Config.unqueuedCapture off n) (t.clock (Config.unqueuedClocked off n t.mem.clocked)).settled
    else .returned ((t.sync (off + n)).mem.valueAt off n) (t.sync (off + n)).settled
  | (.fails e _ clocked, t) => .failed e (t.clock clocked).settled
  | (.pending _ clocked, t) => .waiting (t.clockSome (off + n) clocked)

/-- `ENG.phase <- p`. -/
def State.setPhase (p : Phase) (s : State) : State := { s with eng := { s.eng with phase := p } }

/-- `ENG.ack_off <- off` (R148). -/
def State.setAckOff (off : Nat) (s : State) : State := { s with eng := { s.eng with ackOff := some off } }

/-- `ENG.ack <- a` (R153). -/
def State.setAck (a : AckBits) (s : State) : State := { s with eng := { s.eng with ack := some a } }

/-- `ENG.data <- d` (R154). -/
def State.setData (d : Word) (s : State) : State := { s with eng := { s.eng with data := some d } }

/-- `ENG.par <- p` (R155). -/
def State.setPar (p : Bool) (s : State) : State := { s with eng := { s.eng with par := some p } }

/-- The transport after a call. -/
def State.setTr (t : Transport) (s : State) : State := { s with tr := t }

/-- The caller's commands after it has issued one. -/
def State.setCommands (cs : List Command) (s : State) : State := { s with caller := { s.caller with commands := cs } }

/-- Something is handed to the caller. -/
def State.deliver (d : Delivery) (s : State) : State := { s with caller := { s.caller with received := s.caller.received ++ [d] } }

/-- R145 and R38: the transition out of IDLE un-writes every ENG latch but the phase, presents no Response, and goes to Q_HDR. No
transport call is under way (R62). -/
def State.begin (s : State) : State :=
  { s with eng := { Engine.empty with phase := .qHdr }, response := none, tr := s.tr.settled }

/-- TAKING A TRANSPORT FAILURE (60_exceptions.md R206, 41_transaction_engine.md R158): `ENG.err <- e`, `ENG.phase <- FAILED`, no
Response; nothing else changes, what was queued stays queued. -/
def State.failTransaction (e : TransportFailure) (s : State) : State :=
  { s with eng := { s.eng with phase := .failed, err := some e }, response := none }

/-- CLASSIFY's end (R156): the Response is presented and the phase is DONE. -/
def State.present (r : Response) (s : State) : State :=
  { s with eng := { s.eng with phase := .done }, response := some r }

/-- THE RETURN (R144 (c), R157, R210, R242): the caller has taken the result; the engine is IDLE again and holds nothing of the
transaction. REQ lives on until the caller discards it (R37, log 17). -/
def State.finish (d : Delivery) (s : State) : State :=
  { s with eng := Engine.empty, response := none }.deliver d

/-- Reset of the block (R231): IDLE, no value in any latch, no Response. The transport and what is queued stay (R232), also what a call
that has not returned has queued or clocked so far: none, part or all; of that call nothing more happens (log 29). -/
def State.resetBlock (s : State) : State :=
  { s with req := none, eng := Engine.empty, response := none, tr := s.tr.settled }

/-- What a phase does with its transport call: go on with the value, take the failure, or stay where it is (R144, R206, R246). -/
def State.afterCall (s : State) (r : CallResult) (go : Nat → State → State) : State :=
  match r with
  | .returned v t => go v (s.setTr t)
  | .failed e t => (s.setTr t).failTransaction e
  | .waiting t => s.setTr t

end Sys2Proof.Machine
end

