-- ==== Sys2Proof/Machine/Engine.lean ====
section
/-! DEFINITION. The Transaction Engine phase by phase (41_transaction_engine.md R143 to R158), and `send` as the run of its phases. -/

namespace Sys2Proof.Machine

/-- One outcome of the engine. -/
abbrev Result := Host.Outcome State Fault Refusal

/-- `Q_HDR` (R147): the latched header is queued, its offset discarded. -/
def phaseQHdr (s : State) : Result :=
  match s.req with
  | none => .fault (.unwrittenLatch .req)
  | some r => .next (s.afterCall (queueCall r.header.toNat Config.headerWidth s.tr) fun _ s => s.setPhase .qAck)

/-- `Q_ACK` (R148): three reserved bits; the returned offset is `ack_off`. -/
def phaseQAck (s : State) : Result :=
  .next (s.afterCall (queueCall Config.reservedFill Config.ackWidth s.tr) fun off s => (s.setAckOff off).setPhase .qData)

/-- `Q_DATA` (R149 to R151): 32 reserved bits for a Read, the payload for a Write. -/
def phaseQData (s : State) : Result :=
  match s.req with
  | none => .fault (.unwrittenLatch .req)
  | some r =>
    match dataPhaseValues r with
    | none => .fault (.unwrittenLatch .payload)
    | some (d, _) => .next (s.afterCall (queueCall d Config.dataWidth s.tr) fun _ s => s.setPhase .qPar)

/-- `Q_PAR` (R149 to R151): one reserved bit for a Read, the payload's parity for a Write. -/
def phaseQPar (s : State) : Result :=
  match s.req with
  | none => .fault (.unwrittenLatch .req)
  | some r =>
    match dataPhaseValues r with
    | none => .fault (.unwrittenLatch .payload)
    | some (_, p) => .next (s.afterCall (queueCall p Config.parWidth s.tr) fun _ s => s.setPhase .cAck)

/-- The successor of `C_ACK`, the one choice on `REQ.dir` (R144 (a)). -/
def afterAck : Direction → Phase
  | .read => .cData
  | .write => .classify

/-- `C_ACK` (R153): the three ack bits at `ack_off`. -/
def phaseCAck (s : State) : Result :=
  match s.req, s.eng.ackOff with
  | none, _ => .fault (.unwrittenLatch .req)
  | some _, none => .fault (.unwrittenLatch .ackOff)
  | some r, some off =>
    .next (s.afterCall (captureCall off Config.ackWidth s.tr) fun v s => (s.setAck (ackOfValue v)).setPhase (afterAck r.dir))

/-- `C_DATA` (R154): the 32 bits at `ack_off + 3`, whatever the ack (D7). -/
def phaseCData (s : State) : Result :=
  match s.eng.ackOff with
  | none => .fault (.unwrittenLatch .ackOff)
  | some off =>
    .next (s.afterCall (captureCall (dataOffset off) Config.dataWidth s.tr) fun v s => (s.setData (dataOfValue v)).setPhase .cPar)

/-- `C_PAR` (R155): the bit at `ack_off + 35`, whatever the ack (D7). -/
def phaseCPar (s : State) : Result :=
  match s.eng.ackOff with
  | none => .fault (.unwrittenLatch .ackOff)
  | some off =>
    .next (s.afterCall (captureCall (parOffset off) Config.parWidth s.tr) fun v s => (s.setPar (parOfValue v)).setPhase .classify)

/-- `CLASSIFY` under the ack pattern `a` (R156, 42_parity_and_response.md R185 to R187): no transport call; the Response is formed from
the direction, the ack and, for a Read, the data and parity latches. -/
def classifyUnder (a : AckBits) (s : State) : Result :=
  match s.req with
  | none => .fault (.unwrittenLatch .req)
  | some r =>
    match r.dir with
    | .write => .next (s.present (classifyWrite a))
    | .read =>
      match s.eng.data, s.eng.par with
      | none, _ => .fault (.unwrittenLatch .data)
      | some _, none => .fault (.unwrittenLatch .par)
      | some d, some p => .next (s.present (classifyRead a d p))

/-- `CLASSIFY` (R156): the latched ack decides. -/
def phaseClassify (s : State) : Result :=
  match s.eng.ack with
  | none => .fault (.unwrittenLatch .ack)
  | some a => classifyUnder a s

/-- One phase of the engine, at most one transport call (00_scope.md R13, R143). In IDLE, DONE and FAILED the engine takes no step of
its own: it waits for the caller (R145, R157, R158). -/
def tick (s : State) : Result :=
  match s.eng.phase with
  | .idle => .next s
  | .qHdr => phaseQHdr s
  | .qAck => phaseQAck s
  | .qData => phaseQData s
  | .qPar => phaseQPar s
  | .cAck => phaseCAck s
  | .cData => phaseCData s
  | .cPar => phaseCPar s
  | .classify => phaseClassify s
  | .done => .next s
  | .failed => .next s

/-- The engine's phases run one after another, until one leaves the phase as it was: a call that has not returned (R246), or a phase
in which the engine waits for the caller. -/
def runEngine : Nat → State → Result
  | 0, s => .next s
  | k + 1, s =>
    match tick s with
    | .next s' => if s'.eng.phase = s.eng.phase then .next s' else runEngine k s'
    | .fault f => .fault f
    | .refused r => .refused r

/-- The most phases a transaction has, Q_HDR to DONE (R143). -/
def enginePhases : Nat := 9

/-- `send(REQ, TR)` of the built Request (R140, R142, R145), as the run of its phases (R166). -/
def sendBuilt (s : State) : Result := runEngine enginePhases s.begin

/-- One register access (R161 to R164): `BuildRequest` (R110), which latches REQ, and then `send`. What cannot be built never reaches
the engine (R119, R221); only an IDLE engine takes a Request (R63, R145, R211). -/
def access (registerIndex : Nat) (accessPort : Bool) (direction : Direction) (payload : Option Word) (s : State) : Result :=
  match buildRequest registerIndex accessPort direction payload with
  | none => .refused .writeWithoutPayload
  | some r => if s.eng.phase = .idle then sendBuilt { s with req := some r } else .refused .transactionInProgress

/-- The CLASSIFY phase under one ack pattern: the meaning of an ack row (R184; log 5). -/
def ackRow (a : AckBits) (s : State) : Result :=
  if s.eng.phase = .classify then classifyUnder a s else .refused .notClassifying

end Sys2Proof.Machine
end

