-- ==== Sys2Proof/Machine/Ack.lean ====
section
/-! DEFINITION. The eight ack patterns (30_encoding.md R89, 42_parity_and_response.md R184): CLASSIFY under each. -/

namespace Sys2Proof.Machine

/-- `ack = 0b000`: INVALID. -/
def execAckInvalid0 (s : State) : Result := ackRow 0#3 s

/-- `ack = 0b001`: ACK. A Read is ACK only if its parity agrees (R186). -/
def execAckAck (s : State) : Result := ackRow 1#3 s

/-- `ack = 0b010`: WAIT. No retry, no delay (60_exceptions.md R202). -/
def execAckWait (s : State) : Result := ackRow 2#3 s

/-- `ack = 0b011`: INVALID. -/
def execAckInvalid3 (s : State) : Result := ackRow 3#3 s

/-- `ack = 0b100`: FAULT. Nothing is cleared or remembered (R203). -/
def execAckFault (s : State) : Result := ackRow 4#3 s

/-- `ack = 0b101`: INVALID. -/
def execAckInvalid5 (s : State) : Result := ackRow 5#3 s

/-- `ack = 0b110`: INVALID. -/
def execAckInvalid6 (s : State) : Result := ackRow 6#3 s

/-- `ack = 0b111`: INVALID. -/
def execAckInvalid7 (s : State) : Result := ackRow 7#3 s

end Sys2Proof.Machine
end

