-- ==== Sys2Proof/Machine/RdAp.lean ====
section
/-! DEFINITION. `RD.AP`: read an Access Port register (41_transaction_engine.md R162). -/

namespace Sys2Proof.Machine

/-- `RD.AP 0` (R162): header 135. -/
def execRdAp0 (s : State) : Result := access 0 true .read none s

/-- `RD.AP 1` (R162): header 175. -/
def execRdAp1 (s : State) : Result := access 1 true .read none s

/-- `RD.AP 2` (R162): header 183. -/
def execRdAp2 (s : State) : Result := access 2 true .read none s

/-- `RD.AP 3` (R162): header 159. -/
def execRdAp3 (s : State) : Result := access 3 true .read none s

/-- `RD.AP i` (R162) for any index the caller presents: only its low two bits count (R111), a payload offered is dropped (R119). -/
def execRdAp (index : Nat) (payload : Option Word) (s : State) : Result := access index true .read payload s

end Sys2Proof.Machine
end

