-- ==== Sys2Proof/Machine/RdDp.lean ====
section
/-! DEFINITION. `RD.DP`: read a Debug Port register (41_transaction_engine.md R161). -/

namespace Sys2Proof.Machine

/-- `RD.DP 0` (R161): header 165. -/
def execRdDp0 (s : State) : Result := access 0 false .read none s

/-- `RD.DP 1` (R161): header 141. -/
def execRdDp1 (s : State) : Result := access 1 false .read none s

/-- `RD.DP 2` (R161): header 149. -/
def execRdDp2 (s : State) : Result := access 2 false .read none s

/-- `RD.DP 3` (R161): header 189. -/
def execRdDp3 (s : State) : Result := access 3 false .read none s

/-- `RD.DP i` (R161) for any index the caller presents: only its low two bits count (R111), a payload offered is dropped (R119). -/
def execRdDp (index : Nat) (payload : Option Word) (s : State) : Result := access index false .read payload s

end Sys2Proof.Machine
end

