-- ==== Sys2Proof/Machine/WrAp.lean ====
section
/-! DEFINITION. `WR.AP`: write an Access Port register (41_transaction_engine.md R164). -/

namespace Sys2Proof.Machine

/-- `WR.AP 0, w` (R164): header 163, then the payload `w`. -/
def execWrAp0 (payload : Word) (s : State) : Result := access 0 true .write (some payload) s

/-- `WR.AP 1, w` (R164): header 139, then the payload `w`. -/
def execWrAp1 (payload : Word) (s : State) : Result := access 1 true .write (some payload) s

/-- `WR.AP 2, w` (R164): header 147, then the payload `w`. -/
def execWrAp2 (payload : Word) (s : State) : Result := access 2 true .write (some payload) s

/-- `WR.AP 3, w` (R164): header 187, then the payload `w`. -/
def execWrAp3 (payload : Word) (s : State) : Result := access 3 true .write (some payload) s

/-- `WR.AP i` (R164) for any index the caller presents: only its low two bits count (R111), a missing payload is refused (R119). -/
def execWrAp (index : Nat) (payload : Option Word) (s : State) : Result := access index true .write payload s

end Sys2Proof.Machine
end

