-- ==== Sys2Proof/Machine/WrDp.lean ====
section
/-! DEFINITION. `WR.DP`: write a Debug Port register (41_transaction_engine.md R163). -/

namespace Sys2Proof.Machine

/-- `WR.DP 0, w` (R163): header 129, then the payload `w`. -/
def execWrDp0 (payload : Word) (s : State) : Result := access 0 false .write (some payload) s

/-- `WR.DP 1, w` (R163): header 169, then the payload `w`. -/
def execWrDp1 (payload : Word) (s : State) : Result := access 1 false .write (some payload) s

/-- `WR.DP 2, w` (R163): header 177, then the payload `w`. -/
def execWrDp2 (payload : Word) (s : State) : Result := access 2 false .write (some payload) s

/-- `WR.DP 3, w` (R163): header 153, then the payload `w`. -/
def execWrDp3 (payload : Word) (s : State) : Result := access 3 false .write (some payload) s

/-- `WR.DP i` (R163) for any index the caller presents: only its low two bits count (R111), a missing payload is refused (R119). -/
def execWrDp (index : Nat) (payload : Option Word) (s : State) : Result := access index false .write payload s

end Sys2Proof.Machine
end

