-- ==== Sys2Proof/Machine/Dispatch.lean ====
section
/-! DEFINITION. The meaning of every instruction: one arm per constructor of `Instr`. -/

namespace Sys2Proof.Machine

def exec (i : Instr) (s : State) : Host.Outcome State Fault Refusal :=
  match i with
  | .rdDp0 => Sys2Proof.Machine.execRdDp0 s
  | .rdDp1 => Sys2Proof.Machine.execRdDp1 s
  | .rdDp2 => Sys2Proof.Machine.execRdDp2 s
  | .rdDp3 => Sys2Proof.Machine.execRdDp3 s
  | .rdAp0 => Sys2Proof.Machine.execRdAp0 s
  | .rdAp1 => Sys2Proof.Machine.execRdAp1 s
  | .rdAp2 => Sys2Proof.Machine.execRdAp2 s
  | .rdAp3 => Sys2Proof.Machine.execRdAp3 s
  | .wrDp0 payload => Sys2Proof.Machine.execWrDp0 payload s
  | .wrDp1 payload => Sys2Proof.Machine.execWrDp1 payload s
  | .wrDp2 payload => Sys2Proof.Machine.execWrDp2 payload s
  | .wrDp3 payload => Sys2Proof.Machine.execWrDp3 payload s
  | .wrAp0 payload => Sys2Proof.Machine.execWrAp0 payload s
  | .wrAp1 payload => Sys2Proof.Machine.execWrAp1 payload s
  | .wrAp2 payload => Sys2Proof.Machine.execWrAp2 payload s
  | .wrAp3 payload => Sys2Proof.Machine.execWrAp3 payload s
  | .rdDp index payload => Sys2Proof.Machine.execRdDp index payload s
  | .rdAp index payload => Sys2Proof.Machine.execRdAp index payload s
  | .wrDp index payload => Sys2Proof.Machine.execWrDp index payload s
  | .wrAp index payload => Sys2Proof.Machine.execWrAp index payload s
  | .ackInvalid0 => Sys2Proof.Machine.execAckInvalid0 s
  | .ackAck => Sys2Proof.Machine.execAckAck s
  | .ackWait => Sys2Proof.Machine.execAckWait s
  | .ackInvalid3 => Sys2Proof.Machine.execAckInvalid3 s
  | .ackFault => Sys2Proof.Machine.execAckFault s
  | .ackInvalid5 => Sys2Proof.Machine.execAckInvalid5 s
  | .ackInvalid6 => Sys2Proof.Machine.execAckInvalid6 s
  | .ackInvalid7 => Sys2Proof.Machine.execAckInvalid7 s

end Sys2Proof.Machine
end

