-- ==== Sys2Proof/Machine/Fetch.lean ====
section
/-! DEFINITION. Where the next instruction comes from, and what the caller's other commands do (60_exceptions.md R210 to R216,
70_reset_and_hazards.md R230, R231). Requests are handed over one at a time, never fetched (10_state.md R35): the place a request
is taken from is the caller's list of commands, and the place an ack pattern is taken from is the latch `ENG.ack` (log 2, log 5). -/

namespace Sys2Proof.Machine

/-- The instruction of a request handed over by its four values (R92, R110). -/
def requestInstr (registerIndex : Nat) (accessPort : Bool) (direction : Direction) (payload : Option Word) : Instr :=
  match direction, accessPort with
  | .read, false => .rdDp registerIndex payload
  | .read, true => .rdAp registerIndex payload
  | .write, false => .wrDp registerIndex payload
  | .write, true => .wrAp registerIndex payload

/-- A request handed over in coded form: a header decodes and runs; a byte that is no header, an ack pattern among them, is refused
(30_encoding.md R84, R91, U14); a Write header without its payload is refused (R119). -/
def runWord (bytes : List Byte) (s : State) : Result :=
  match decode bytes with
  | .ok (i, _) =>
    match i.ackPattern with
    | none => exec i s
    | some _ => .refused .notAHeader
  | .error (.missingPayload _) => .refused .writeWithoutPayload
  | .error .nothing => .refused .notAHeader
  | .error (.notAHeader _) => .refused .notAHeader

/-- The caller builds a Request and keeps it in REQ (R110); no transport call, no Response. -/
def runBuild (registerIndex : Nat) (accessPort : Bool) (direction : Direction) (payload : Option Word) (s : State) : Result :=
  match buildRequest registerIndex accessPort direction payload with
  | none => .refused .writeWithoutPayload
  | some r => .next { s with req := some r }

/-- The caller calls `send` with the Request it has built (R121, R140); without one, `send` has no meaning (R141). -/
def runSend (s : State) : Result :=
  match s.req with
  | none => .refused .noRequestBuilt
  | some _ => sendBuilt s

/-- What the caller is handed by a transport call of its own between sends; while the call has not returned the command stays. -/
def callerCall (rest : List Command) (handed : Nat → Delivery) (r : CallResult) (s : State) : State :=
  match r with
  | .returned v t => ((s.setTr t).setCommands rest).deliver (handed v)
  | .failed e t => ((s.setTr t).setCommands rest).deliver (.transportError e)
  | .waiting t => s.setTr t

/-- An IDLE engine and the caller's next command. Without one the block does nothing (R230). -/
def idleStep (s : State) : Result :=
  match s.caller.commands with
  | [] => .next s
  | .word bytes :: rest => runWord bytes (s.setCommands rest)
  | .request i ap dir payload :: rest => exec (requestInstr i ap dir payload) (s.setCommands rest)
  | .build i ap dir payload :: rest => runBuild i ap dir payload (s.setCommands rest)
  | .send :: rest => runSend (s.setCommands rest)
  | .take :: _ => .refused .nothingToTake
  | .reset :: rest => .next (s.setCommands rest).resetBlock
  | .queue v n :: rest => .next (callerCall rest .offset (queueCall v n s.tr) s)
  | .capture off n :: rest => .next (callerCall rest .value (captureCall off n s.tr) s)

/-- DONE: the Response is presented until the caller takes it (R144 (c), R157). A caller that goes on to another command has taken it
(log 16). -/
def doneStep (s : State) : Result :=
  match s.response with
  | none => .fault (.unwrittenLatch .response)
  | some r =>
    match s.caller.commands with
    | [] => .next s
    | .take :: rest => .next ((s.setCommands rest).finish (.response r))
    | _ :: _ => .next (s.finish (.response r))

/-- FAILED: the failure is reported "propagated unchanged to the caller" (R158, R206). If the caller takes it the engine is IDLE again
(R144 (c)); if not, the run ends in the fault of R221 (log 15). -/
def failedStep (s : State) : Result :=
  match s.eng.err with
  | none => .fault (.unwrittenLatch .err)
  | some e =>
    match s.caller.commands with
    | .take :: rest => .next ((s.setCommands rest).finish (.transportError e))
    | _ => .fault (.transportError e)

/-- CLASSIFY: the pattern in `ENG.ack` is the instruction that runs (R184; log 5). -/
def classifyStep (s : State) : Result :=
  match s.eng.ack with
  | none => .fault (.unwrittenLatch .ack)
  | some a => exec (ackInstr a) s

/-- One step without the reset input. In the middle of a transaction the caller's commands are not looked at (R62, R208). -/
def phaseStep (s : State) : Result :=
  match s.eng.phase with
  | .idle => idleStep s
  | .qHdr => runEngine enginePhases s
  | .qAck => runEngine enginePhases s
  | .qData => runEngine enginePhases s
  | .qPar => runEngine enginePhases s
  | .cAck => runEngine enginePhases s
  | .cData => runEngine enginePhases s
  | .cPar => runEngine enginePhases s
  | .classify => classifyStep s
  | .done => doneStep s
  | .failed => failedStep s

/-- One step of the machine. The reset input acts in any phase (R231, log 20). -/
def runStep (s : State) : Result :=
  match s.caller.commands with
  | .reset :: rest => .next (s.setCommands rest).resetBlock
  | _ => phaseStep s

/-- A request word placed as the caller's next command to an IDLE engine. -/
def placeRequest (bytes : List Byte) (s : State) : State :=
  (s.setPhase .idle).setCommands (.word bytes :: s.caller.commands)

/-- CLASSIFY can run: a Write Request, or a Read Request whose data and parity are latched (R185). -/
def classifiable (s : State) : Bool :=
  match s.req with
  | none => false
  | some r =>
    match r.dir with
    | .write => true
    | .read => s.eng.data.isSome && s.eng.par.isSome

/-- An ack pattern placed in `ENG.ack` of an engine in CLASSIFY; where no Request stands that can be classified, `WR.DP 0, 0` (log 5). -/
def placeAck (a : AckBits) (s : State) : State :=
  let s := (s.setAck a).setPhase .classify
  if classifiable s then s else { s with req := buildRequest 0 false .write (some 0#32) }

/-- A table word placed where the next step takes its instruction from. -/
def placeWord (s : State) (nbits w : Nat) : State :=
  match (decodeTableWord nbits w).bind Instr.ackPattern with
  | some a => placeAck a s
  | none => placeRequest (tableBytes nbits w) s

end Sys2Proof.Machine
end

