-- ==== Sys2Proof/Machine/Step.lean ====
section
/-! DEFINITION. One step of the machine. -/

namespace Sys2Proof.Machine

/-- One step: `Machine.runStep`. -/
def step (s : State) : Host.Outcome State Fault Refusal := runStep s

/-- The state in which the next step takes the table word `w` as its instruction: `Machine.placeWord`. -/
def State.withFetchWord (s : State) (nbits w : Nat) : State := placeWord s nbits w

end Sys2Proof.Machine
end

