-- ==== Sys2Proof/Machine/Send.lean ====
section
/-! DEFINITION. `send` as ONE function of a Request and a transport (41_transaction_engine.md R142): what the source describes, written
apart from the phase machine of Machine/Engine.lean, which R166 says is the same `send`. -/

namespace Sys2Proof.Machine

/-- What `send` comes to: a Response, the transport's own failure (R140), or no return yet (R246). -/
inductive SendResult where
  | response (r : Response) (t : Transport)
  | transportError (e : TransportFailure) (t : Transport)
  | notReturned (t : Transport)
deriving DecidableEq, Repr

/-- A call, and what comes after it if it returns; a failure ends `send` at that call (R142, R206). -/
def CallResult.andThen (c : CallResult) (go : Nat → Transport → SendResult) : SendResult :=
  match c with
  | .returned v t => go v t
  | .failed e t => .transportError e t
  | .waiting t => .notReturned t

/-- Step 3 of R142 for a Read, and steps 4 and 5: reserve, capture ack, data and parity, classify. -/
def sendRead (ackOff : Nat) (t : Transport) : SendResult :=
  (queueCall Config.reservedFill 32 t).andThen fun _ t =>
  (queueCall Config.reservedFill 1 t).andThen fun _ t =>
  (captureCall ackOff 3 t).andThen fun ack t =>
  (captureCall (ackOff + 3) 32 t).andThen fun data t =>
  (captureCall (ackOff + 3 + 32) 1 t).andThen fun par t =>
  .response (classifyRead (ackOfValue ack) (dataOfValue data) (parOfValue par)) t

/-- Step 3 of R142 for a Write of `w`, and steps 4 and 5: queue the payload and its parity, capture the ack, classify. -/
def sendWrite (w : Word) (ackOff : Nat) (t : Transport) : SendResult :=
  (queueCall w.toNat 32 t).andThen fun _ t =>
  (queueCall (parity32 w).toNat 1 t).andThen fun _ t =>
  (captureCall ackOff 3 t).andThen fun ack t =>
  .response (classifyWrite (ackOfValue ack)) t

/-- `send(REQ, TR)` (R142). `write` is none for a Read and the payload of a Write. -/
def send (header : Byte) (write : Option Word) (t : Transport) : SendResult :=
  (queueCall header.toNat 8 t.settled).andThen fun _ t =>
  (queueCall Config.reservedFill 3 t).andThen fun ackOff t =>
  match write with
  | none => sendRead ackOff t
  | some w => sendWrite w ackOff t

end Sys2Proof.Machine
end

