-- ==== Sys2Proof/WellFormed.lean ====
section
/-! DEFINITION. Well-formedness of an instruction: "A Write Request carries a 32-bit payload" (40_request_codec.md R119).
An index outside 0 to 3 is well-formed: the block masks it (R111); a payload offered with a Read is dropped (R119). -/

namespace Sys2Proof

/-- A Write without a payload is not a Request (R119). The other widths are in the types (R182). -/
def Instr.wellFormed : Instr → Bool
  | .rdDp0 => true
  | .rdDp1 => true
  | .rdDp2 => true
  | .rdDp3 => true
  | .rdAp0 => true
  | .rdAp1 => true
  | .rdAp2 => true
  | .rdAp3 => true
  | .wrDp0 _ => true
  | .wrDp1 _ => true
  | .wrDp2 _ => true
  | .wrDp3 _ => true
  | .wrAp0 _ => true
  | .wrAp1 _ => true
  | .wrAp2 _ => true
  | .wrAp3 _ => true
  | .rdDp _ _ => true
  | .rdAp _ _ => true
  | .wrDp _ payload => payload.isSome
  | .wrAp _ payload => payload.isSome
  | .ackInvalid0 => true
  | .ackAck => true
  | .ackWait => true
  | .ackInvalid3 => true
  | .ackFault => true
  | .ackInvalid5 => true
  | .ackInvalid6 => true
  | .ackInvalid7 => true

end Sys2Proof
end

