-- ==== Sys2Proof/Safety.lean ====
section
/-! DEFINITION. The terms statements are made in: the table of headers and the Request each instruction stands for (30_encoding.md R83),
the frame (R86 to R88), the phase order (41_transaction_engine.md R143, R144), and the invariant of a run. -/

namespace Sys2Proof.Machine

/-- The complete 16-entry truth table (R83), index-ordered. -/
def headerTable (dir : Direction) (ap : Bool) (idx : Index) : Byte :=
  match dir, ap with
  | .read, false => [165#8, 141#8, 149#8, 189#8].getD idx.toNat 0#8
  | .read, true => [135#8, 175#8, 183#8, 159#8].getD idx.toNat 0#8
  | .write, false => [129#8, 169#8, 177#8, 153#8].getD idx.toNat 0#8
  | .write, true => [163#8, 139#8, 147#8, 187#8].getD idx.toNat 0#8

/-- A Read Request with the header of the table (R21 to R26). -/
def tableRead (idx : Index) (ap : Bool) : Request :=
  { idx := idx, ap := ap, dir := .read, payload := none, header := headerTable .read ap idx }

/-- A Write Request with the header of the table (R21 to R26). -/
def tableWrite (idx : Index) (ap : Bool) (w : Word) : Request :=
  { idx := idx, ap := ap, dir := .write, payload := some w, header := headerTable .write ap idx }

/-- The Read access an instruction stands for: port and index (R161, R162), the index modulo 4 (R111). -/
def readTarget : Instr → Option (Index × Bool)
  | .rdDp0 => some (0#2, false)
  | .rdDp1 => some (1#2, false)
  | .rdDp2 => some (2#2, false)
  | .rdDp3 => some (3#2, false)
  | .rdAp0 => some (0#2, true)
  | .rdAp1 => some (1#2, true)
  | .rdAp2 => some (2#2, true)
  | .rdAp3 => some (3#2, true)
  | .rdDp i _ => some (BitVec.ofNat 2 (i % 4), false)
  | .rdAp i _ => some (BitVec.ofNat 2 (i % 4), true)
  | .wrDp0 _ => none
  | .wrDp1 _ => none
  | .wrDp2 _ => none
  | .wrDp3 _ => none
  | .wrAp0 _ => none
  | .wrAp1 _ => none
  | .wrAp2 _ => none
  | .wrAp3 _ => none
  | .wrDp _ _ => none
  | .wrAp _ _ => none
  | .ackInvalid0 => none
  | .ackAck => none
  | .ackWait => none
  | .ackInvalid3 => none
  | .ackFault => none
  | .ackInvalid5 => none
  | .ackInvalid6 => none
  | .ackInvalid7 => none

/-- The Write access an instruction stands for: port, index and payload (R163, R164), the index modulo 4 (R111). -/
def writeTarget : Instr → Option (Index × Bool × Word)
  | .wrDp0 w => some (0#2, false, w)
  | .wrDp1 w => some (1#2, false, w)
  | .wrDp2 w => some (2#2, false, w)
  | .wrDp3 w => some (3#2, false, w)
  | .wrAp0 w => some (0#2, true, w)
  | .wrAp1 w => some (1#2, true, w)
  | .wrAp2 w => some (2#2, true, w)
  | .wrAp3 w => some (3#2, true, w)
  | .wrDp i p => p.map fun w => (BitVec.ofNat 2 (i % 4), false, w)
  | .wrAp i p => p.map fun w => (BitVec.ofNat 2 (i % 4), true, w)
  | .rdDp0 => none
  | .rdDp1 => none
  | .rdDp2 => none
  | .rdDp3 => none
  | .rdAp0 => none
  | .rdAp1 => none
  | .rdAp2 => none
  | .rdAp3 => none
  | .rdDp _ _ => none
  | .rdAp _ _ => none
  | .ackInvalid0 => none
  | .ackAck => none
  | .ackWait => none
  | .ackInvalid3 => none
  | .ackFault => none
  | .ackInvalid5 => none
  | .ackInvalid6 => none
  | .ackInvalid7 => none

/-- The Request an instruction stands for, with the header of the table; none for an ack pattern and for a Write without payload. -/
def requestOf (i : Instr) : Option Request :=
  match readTarget i, writeTarget i with
  | some (idx, ap), _ => some (tableRead idx ap)
  | none, some (idx, ap, w) => some (tableWrite idx ap w)
  | none, none => none

/-- The 36 positions of a frame after its header: the three ack positions reserved, the data positions and the parity position
(R86 to R88). -/
def frameTail (payload : Option Word) : List Bool :=
  match payload with
  | none => List.replicate 36 false
  | some w => List.replicate 3 false ++ bitsOf w.toNat 32 ++ [parity32 w]

/-- The 44 positions of a Request's frame as they are queued (R86). -/
def frameBits (r : Request) : List Bool := bitsOf r.header.toNat 8 ++ frameTail r.payload

/-- The transport after a whole frame has been queued, the bus clocked, and no call under way (R56, R86). -/
def Transport.afterFrame (r : Request) (t : Transport) : Transport :=
  let t := { t with mem := t.mem.append (frameBits r) }
  (t.clock t.mem.unclocked.length).settled

/-- How many transport calls one `send` makes (R159). -/
def callsOf : Direction → Nat
  | .read => 7
  | .write => 5

/-- The phase after a phase that went well (R143, R144 (a)); in IDLE, DONE and FAILED the engine waits. -/
def successor : Direction → Phase → Phase
  | _, .idle => .idle
  | _, .qHdr => .qAck
  | _, .qAck => .qData
  | _, .qData => .qPar
  | _, .qPar => .cAck
  | .read, .cAck => .cData
  | .write, .cAck => .classify
  | _, .cData => .cPar
  | _, .cPar => .classify
  | _, .classify => .done
  | _, .done => .done
  | _, .failed => .failed

/-- The phases in which the engine makes a transport call (R143). -/
def Phase.calls : Phase → Bool
  | .idle => false
  | .qHdr => true
  | .qAck => true
  | .qData => true
  | .qPar => true
  | .cAck => true
  | .cData => true
  | .cPar => true
  | .classify => false
  | .done => false
  | .failed => false

/-- How many positions a phase queues (R143): none but in the four queue phases. -/
def Phase.queueWidth : Phase → Nat
  | .idle => 0
  | .qHdr => 8
  | .qAck => 3
  | .qData => 32
  | .qPar => 1
  | .cAck => 0
  | .cData => 0
  | .cPar => 0
  | .classify => 0
  | .done => 0
  | .failed => 0

/-- The phases that capture (R143), the only ones in which the bus is clocked (R56). -/
def Phase.captures : Phase → Bool
  | .idle => false
  | .qHdr => false
  | .qAck => false
  | .qData => false
  | .qPar => false
  | .cAck => true
  | .cData => true
  | .cPar => true
  | .classify => false
  | .done => false
  | .failed => false

/-- Where a capture ends, counted from `ack_off` (R153 to R155). -/
def Phase.captureEnd : Phase → Nat
  | .idle => 0
  | .qHdr => 0
  | .qAck => 0
  | .qData => 0
  | .qPar => 0
  | .cAck => 3
  | .cData => 35
  | .cPar => 36
  | .classify => 0
  | .done => 0
  | .failed => 0

/-- The positions a phase queues for a Request, in order (R147 to R152): the header, reserved positions, the payload and its parity. -/
def Request.phaseBits (r : Request) : Phase → List Bool
  | .idle => []
  | .qHdr => bitsOf r.header.toNat 8
  | .qAck => List.replicate 3 false
  | .qData => bitsOf (r.payload.getD 0#32).toNat 32
  | .qPar => [parity32 (r.payload.getD 0#32)]
  | .cAck => []
  | .cData => []
  | .cPar => []
  | .classify => []
  | .done => []
  | .failed => []

/-- The phases of a Read's and a Write's transport calls, in order (R143). -/
def callPhases : Direction → List Phase
  | .read => [.qHdr, .qAck, .qData, .qPar, .cAck, .cData, .cPar]
  | .write => [.qHdr, .qAck, .qData, .qPar, .cAck]

/-- A Request as construction leaves it: its header is the function of its fields (R26, R118), a payload is there exactly for a Write
(R25, R119). -/
def Request.built (r : Request) : Bool :=
  r.header == headerOf r.idx r.ap r.dir && r.payload.isSome == (r.dir == .write)

/-- What every phase of a run can rely on (R38, R143): the latches written before it, and the frame's place in the buffer (R54). -/
def State.PhaseInv (s : State) : Prop :=
  match s.eng.phase with
  | .idle => s.eng = Engine.empty ∧ s.response = none
  | .qHdr => s.req.isSome ∧ s.response = none
  | .qAck => s.req.isSome ∧ s.response = none
  | .qData => s.req.isSome ∧ s.response = none ∧ ∃ off, s.eng.ackOff = some off ∧
      off + 3 + s.tr.progress.queued = s.tr.mem.out.length
  | .qPar => s.req.isSome ∧ s.response = none ∧ ∃ off, s.eng.ackOff = some off ∧
      off + 35 + s.tr.progress.queued = s.tr.mem.out.length
  | .cAck => s.req.isSome ∧ s.response = none ∧ ∃ off, s.eng.ackOff = some off ∧ off + 36 ≤ s.tr.mem.out.length
  | .cData => s.req.isSome ∧ s.response = none ∧ s.eng.ack.isSome ∧
      ∃ off, s.eng.ackOff = some off ∧ off + 36 ≤ s.tr.mem.out.length
  | .cPar => s.req.isSome ∧ s.response = none ∧ s.eng.ack.isSome ∧ s.eng.data.isSome ∧
      ∃ off, s.eng.ackOff = some off ∧ off + 36 ≤ s.tr.mem.out.length
  | .classify => s.response = none ∧ s.eng.ack.isSome ∧
      ∃ r, s.req = some r ∧ (r.dir = .read → s.eng.data.isSome ∧ s.eng.par.isSome)
  | .done => s.response.isSome
  | .failed => s.eng.err.isSome ∧ s.response = none

/-- What the call under way can have done (R52, R56, R59; log 29): a `Queue` no more than its width, a `Capture` has placed nothing, and
without a call nothing is under way. In IDLE the call is the caller's own, its next command. -/
def State.ProgressInv (s : State) : Prop :=
  match s.eng.phase with
  | .idle =>
    match s.caller.commands.head? with
    | some (.queue _ n) => s.tr.progress.queued ≤ n ∧ s.tr.progress.clocking = false
    | some (.capture _ _) => s.tr.progress.queued = 0
    | _ => s.tr.progress = Progress.none
  | p =>
    s.tr.progress.queued ≤ p.queueWidth ∧ (p.captures = false → s.tr.progress.clocking = false)

/-- The invariant of a run: the buffer keeps its form (R51), a latched Request is a built one (R21, R26), every latch a phase reads has
been written (R143), and a call under way has done no more than is its to do. -/
def State.Inv (s : State) : Prop :=
  s.tr.mem.wf = true ∧ (∀ r, s.req = some r → r.built = true) ∧ s.PhaseInv ∧
    s.tr.progress.queued ≤ s.tr.mem.out.length ∧ s.ProgressInv

end Sys2Proof.Machine
end

