-- ==== Sys2Proof/Certificates/Slice0/Obligations.lean ====
section
/-! DEFINITION. The statements for the provers. Each docstring names the rule of spec/ it states, or the model's own choice and its log
entry. -/

open Sys2Proof Sys2Proof.Machine

/-! ## The Request Codec -/

/-- 40_request_codec.md R110, R111, R119, with the headers of 30_encoding.md R83: construction masks the index (the
spec's decision D3), fills every field, drops a Read's payload and builds no Write without one (D18). -/
def Obligations.ConstructionFollowsTheHeaderTable : Prop :=
  (∀ n ap p, buildRequest n ap .read p = some (tableRead (BitVec.ofNat 2 (n % 4)) ap)) ∧
  (∀ n ap w, buildRequest n ap .write (some w) = some (tableWrite (BitVec.ofNat 2 (n % 4)) ap w)) ∧
  (∀ n ap, buildRequest n ap .write none = none)

/-- R112 to R117: every bit of the header of every built Request, from the operands and from the fields of REQ. -/
def Obligations.HeaderBitsOfBuiltRequest : Prop :=
  ∀ n ap dir p r, buildRequest n ap dir p = some r →
    r.header.getLsbD 0 = true ∧
    (r.header.getLsbD 1 = ap ∧ r.header.getLsbD 1 = r.ap) ∧
    (r.header.getLsbD 2 = (dir == .read) ∧ r.header.getLsbD 2 = r.dir.toBit) ∧
    (r.header.getLsbD 3 = n.testBit 0 ∧ r.header.getLsbD 3 = r.idx.getLsbD 0) ∧
    (r.header.getLsbD 4 = n.testBit 1 ∧ r.header.getLsbD 4 = r.idx.getLsbD 1) ∧
    (r.header.getLsbD 5).toNat = ((r.header.getLsbD 1).toNat + (r.header.getLsbD 2).toNat + (r.header.getLsbD 3).toNat
      + (r.header.getLsbD 4).toNat) % 2 ∧
    r.header.getLsbD 5 = (r.header.getLsbD 1 ^^ r.header.getLsbD 2 ^^ r.header.getLsbD 3 ^^ r.header.getLsbD 4) ∧
    r.header.getLsbD 6 = false ∧ r.header.getLsbD 7 = true

/-- R118: the header is the weighted sum of its bits, the shifted form of it, and the entry of the table of 30_encoding.md R83. -/
def Obligations.HeaderClosedForm : Prop :=
  ∀ (idx : Index) (ap : Bool) (dir : Direction),
    let p := ap ^^ dir.toBit ^^ idx.getLsbD 0 ^^ idx.getLsbD 1
    (headerOf idx ap dir).toNat = 1 + 2 * ap.toNat + 4 * dir.toBit.toNat + 8 * (idx.getLsbD 0).toNat
      + 16 * (idx.getLsbD 1).toNat + 32 * p.toNat + 0 * 64 + 128 ∧
    headerOf idx ap dir = 0x81#8 ||| (BitVec.ofBool ap).zeroExtend 8 <<< 1 ||| (BitVec.ofBool dir.toBit).zeroExtend 8 <<< 2
      ||| idx.zeroExtend 8 <<< 3 ||| (BitVec.ofBool p).zeroExtend 8 <<< 5 ∧
    headerOf idx ap dir = headerTable dir ap idx

/-- 30_encoding.md R82: the fixed bits, and the range every header lies in, which the spec derives from them. -/
def Obligations.HeadersHaveTheFixedBits : Prop :=
  ∀ n ap dir p r, buildRequest n ap dir p = some r →
    r.header &&& 0xC1#8 = 0x81#8 ∧ r.header.toNat % 2 = 1 ∧ 0x81 ≤ r.header.toNat ∧ r.header.toNat ≤ 0xBF

/-- 40_request_codec.md R120 and its consequence: header bits 1 to 5 have even weight, and a mask of flips over them keeps the weight
even exactly when it flips an even number. -/
def Obligations.HeaderParityDetectsOddFlips : Prop :=
  ∀ n ap dir p r, buildRequest n ap dir p = some r →
    popcount (bitsOf (r.header.extractLsb' 1 5).toNat 5) % 2 = 0 ∧
    ∀ m : BitVec 5, popcount (bitsOf ((r.header.extractLsb' 1 5) ^^^ m).toNat 5) % 2 = popcount (bitsOf m.toNat 5) % 2

/-- 30_encoding.md R84, which the spec derives from R81: decoding a header. -/
def Obligations.HeaderDecodingIsExact : Prop :=
  (∀ h : Byte, isHeader h = true ↔
    (h &&& 0xC1#8 = 0x81#8 ∧ h.getLsbD 5 = (h.getLsbD 1 ^^ h.getLsbD 2 ^^ h.getLsbD 3 ^^ h.getLsbD 4))) ∧
  (∀ h : Byte, isHeader h = true ↔ ∃ idx ap dir, h = headerTable dir ap idx) ∧
  (∀ idx ap dir, headerAp (headerTable dir ap idx) = ap ∧ headerDir (headerTable dir ap idx) = dir ∧
    headerIdx (headerTable dir ap idx) = idx)

/-- Header bytes written out from R83 and ack patterns from R89 decode to the instruction they stand for, and the four non-headers of
95_test_vectors.md L2.1 do not decode. That a Write's payload follows its header low byte first is the model's choice (log 3), and so is
that the bytes 0 to 7 are read as the ack patterns (log 5). -/
def Obligations.WrittenWordsDecode : Prop :=
  decode [0b10100101#8] = .ok (.rdDp0, []) ∧ decode [0b10011111#8] = .ok (.rdAp3, []) ∧
  decode [0b10110001#8, 0x03#8, 0#8, 0#8, 0#8] = .ok (.wrDp2 0x00000003#32, []) ∧
  decode [0b10001011#8, 0xEF#8, 0xBE#8, 0xAD#8, 0xDE#8] = .ok (.wrAp1 0xDEADBEEF#32, []) ∧
  decode [0b00000010#8] = .ok (.ackWait, []) ∧ decode [0b00000111#8] = .ok (.ackInvalid7, []) ∧
  decode [0x85#8] = .error (.notAHeader 0x85#8) ∧ decode [0x25#8] = .error (.notAHeader 0x25#8) ∧
  decode [0xE5#8] = .error (.notAHeader 0xE5#8) ∧ decode [0xA4#8] = .error (.notAHeader 0xA4#8)

/-- Decode and encode agree: every well-formed instruction, with every operand, is read back from its bytes as the exact row it stands
for (itself, but for the four generic rows; log 4), whatever follows the bytes, and that row stands for the same Request. -/
def Obligations.DecodeOfEncodeIsTheInstruction : Prop :=
  (∀ (i : Instr) (rest : List Byte), i.wellFormed = true →
    decode (encode i ++ rest) = .ok (i.exact, rest) ∧ requestOf i.exact = requestOf i ∧ i.exact.ackPattern = i.ackPattern) ∧
  (∀ i : Instr, (∀ n p, i ≠ .rdDp n p ∧ i ≠ .rdAp n p ∧ i ≠ .wrDp n p ∧ i ≠ .wrAp n p) → i.exact = i)

/-- The other direction: what decodes is the encoding of a well-formed exact row, so no two words mean the same. -/
def Obligations.EncodeOfDecodeIsTheBytes : Prop :=
  ∀ (bytes rest : List Byte) (i : Instr), decode bytes = .ok (i, rest) →
    bytes = encode i ++ rest ∧ i.wellFormed = true ∧ i.exact = i

/-- R111 (the spec's decision D3) and program P6: an access with any index runs as the exact row of the index modulo 4, in every state.
That the generic rows are this form of a request is the model's choice (log 4). -/
def Obligations.GenericRequestRunsAsItsExactRow : Prop :=
  ∀ (i : Instr) (s : State), exec i s = exec i.exact s

/-- R119 (the spec's decision D18): a Write without a payload is no Request and is refused in every state, whether it is sent or only
built; a payload offered with a Read is not kept in REQ and changes nothing. -/
def Obligations.PayloadGoesWithWritesOnly : Prop :=
  (∀ n s, exec (.wrDp n none) s = .refused .writeWithoutPayload ∧ exec (.wrAp n none) s = .refused .writeWithoutPayload) ∧
  (∀ n w s, exec (.rdDp n (some w)) s = exec (.rdDp n none) s ∧ exec (.rdAp n (some w)) s = exec (.rdAp n none) s) ∧
  (∀ n ap rest s, s.eng.phase = .idle →
    s.caller.commands = .request n ap .write none :: rest ∨ s.caller.commands = .build n ap .write none :: rest →
    step s = .refused .writeWithoutPayload) ∧
  (∀ n ap dir p r, buildRequest n ap dir p = some r → r.payload = if dir = .write then p else none)

/-! ## Parity, ack decode, classification -/

/-- 42_parity_and_response.md R180: parity is the number of set bits modulo 2, and the examples of the rule. -/
def Obligations.ParityIsPopcountModTwo : Prop :=
  (∀ d : Word, (parity32 d).toNat = ((List.range 32).map fun i => (d.getLsbD i).toNat).sum % 2) ∧
  parity32 1#32 = true ∧ parity32 2#32 = true ∧ parity32 3#32 = false

/-- R181 (a) to (e), which the spec derives from R180: the XOR of the bits, the corner values, linearity, even weight with the parity bit,
and that the check of a received pair fails exactly when an odd number of its 33 bits differ from a correctly formed pair. -/
def Obligations.ParityLaws : Prop :=
  (∀ d : Word, parity32 d = (List.range 32).foldl (fun acc i => acc ^^ d.getLsbD i) false) ∧
  (parity32 0#32 = false ∧ parity32 0xFFFFFFFF#32 = false ∧ ∀ k, k < 32 → parity32 (BitVec.twoPow 32 k) = true) ∧
  (∀ a b : Word, parity32 (a ^^^ b) = (parity32 a ^^ parity32 b)) ∧
  (∀ (d : Word) (k : Nat), k < 32 → parity32 (d ^^^ BitVec.twoPow 32 k) = !parity32 d) ∧
  (∀ d : Word, (popcount (bitsOf d.toNat 32) + (parity32 d).toNat) % 2 = 0) ∧
  (∀ (d m : Word) (f : Bool),
    mismatch (d ^^^ m) (parity32 d ^^ f) = true ↔ (popcount (bitsOf m.toNat 32) + f.toNat) % 2 = 1)

/-- R184: the ack decode, all eight patterns. -/
def Obligations.AckDecodeTable : Prop :=
  decodeAck 0b001#3 = .ack ∧ decodeAck 0b010#3 = .wait ∧ decodeAck 0b100#3 = .fault ∧
  ∀ a : AckBits, a ≠ 0b001#3 → a ≠ 0b010#3 → a ≠ 0b100#3 → decodeAck a = .invalid

/-- R186, R187 and the table of R188: `Classify_Read` and `Classify_Write`. That a Read's data is presented under every status and a
Write's is absent is the spec's decision D8. -/
def Obligations.ClassificationTables : Prop :=
  (∀ (d : Word) (p : Bool), parity32 d = p → classifyRead 0b001#3 d p = ⟨.ack, some d⟩) ∧
  (∀ (d : Word) (p : Bool), parity32 d ≠ p → classifyRead 0b001#3 d p = ⟨.invalid, some d⟩) ∧
  (∀ (d : Word) (p : Bool), classifyRead 0b010#3 d p = ⟨.wait, some d⟩ ∧ classifyRead 0b100#3 d p = ⟨.fault, some d⟩) ∧
  (∀ (a : AckBits) (d : Word) (p : Bool), a ≠ 0b001#3 → a ≠ 0b010#3 → a ≠ 0b100#3 → classifyRead a d p = ⟨.invalid, some d⟩) ∧
  (classifyWrite 0b001#3 = ⟨.ack, none⟩ ∧ classifyWrite 0b010#3 = ⟨.wait, none⟩ ∧ classifyWrite 0b100#3 = ⟨.fault, none⟩) ∧
  (∀ a : AckBits, a ≠ 0b001#3 → a ≠ 0b010#3 → a ≠ 0b100#3 → classifyWrite a = ⟨.invalid, none⟩)

/-- R192: the source's scenarios A, B and C. -/
def Obligations.ScenariosOfClassifyRead : Prop :=
  ((classifyRead 0b001#3 1#32 true).status = .ack ∧ (classifyRead 0b001#3 1#32 true).data = some 1#32) ∧
  (∀ (d : Word) (p : Bool), (classifyRead 0b010#3 d p).status = .wait) ∧
  (parity32 3#32 = false ∧ (classifyRead 0b001#3 3#32 true).status = .invalid)

/-- R194: what ACK tells, and that an even number of flipped bits still yields it. -/
def Obligations.AckTellsEvenWeight : Prop :=
  (∀ (a : AckBits) (d : Word) (p : Bool), (classifyRead a d p).status = .ack ↔
    (a = 0b001#3 ∧ (popcount (bitsOf d.toNat 32) + p.toNat) % 2 = 0)) ∧
  (∀ (d m : Word) (f : Bool), (popcount (bitsOf m.toNat 32) + f.toNat) % 2 = 0 →
    (classifyRead 0b001#3 (d ^^^ m) (parity32 d ^^ f)).status = .ack) ∧
  (∀ a : AckBits, (classifyWrite a).status = .ack ↔ a = 0b001#3)

/-- R189 (the spec's decision D12): the numeric codes; that of INVALID is open (log 14), but none of the three others. -/
def Obligations.StatusCodesAreDistinct : Prop :=
  statusCode .ack = 1 ∧ statusCode .wait = 2 ∧ statusCode .fault = 4 ∧
  statusCode .invalid ≠ 1 ∧ statusCode .invalid ≠ 2 ∧ statusCode .invalid ≠ 4

/-! ## The transport -/

/-- 20_memory.md R52 in the reference transport (the spec's decision D21): a `Queue` that returns appends the low bits of the value in
order (the spec's decision D1, log 27), ignores the others and changes nothing else; a `Queue` may instead fail. The answers are a list
by log 8; of a `Queue` that has waited (log 29) speaks WaitingChangesNoResult. -/
def Obligations.QueueAppendsLowBitsFirst : Prop :=
  (∀ (v n : Nat) (t : Transport) (rest : List Answer), t.answers = .returns :: rest → t.progress = Progress.none →
    ∃ t', queueCall v n t = .returned t.mem.out.length t' ∧ t'.mem.out.length = t.mem.out.length + n ∧
      (∀ i, i < n → t'.mem.readOut (t.mem.out.length + i) = some (v.testBit i)) ∧
      (∀ p, p < t.mem.out.length → t'.mem.readOut p = t.mem.readOut p) ∧
      t'.mem.shifted = t.mem.shifted ∧ t'.wire = t.wire ∧ t'.answers = rest ∧ t'.progress = Progress.none) ∧
  (∀ (v n : Nat) (t : Transport), queueCall v n t = queueCall (v % 2 ^ n) n t) ∧
  (∀ (v n : Nat) (t : Transport) (e : TransportFailure) (g : List Bool) (c : Nat) (rest : List Answer),
    t.answers = .fails e g c :: rest → ∃ t', queueCall v n t = .failed e t')

/-- 20_memory.md R52, R56, R60, R246: waiting changes no result. A `Queue` that has not returned has placed its next low bits in order,
and a `Capture` of queued positions has clocked the next pending positions in order if it has any to clock, as many as the environment says
(the model's choice, log 29), and nothing else; when the call returns then, its value and the transport are those of a call that has not
waited. So no bit is placed or clocked twice. The answers are a list by log 8. -/
def Obligations.WaitingChangesNoResult : Prop :=
  (∀ (v n q c : Nat) (t : Transport) (rest : List Answer), t.answers = .pending q c :: .returns :: rest →
    t.progress.queued ≤ n → t.progress.queued ≤ t.mem.out.length →
    ∃ t' t'', queueCall v n t = .waiting t' ∧
      t'.mem.out = t.mem.out ++ ((bitsOf v n).drop t.progress.queued).take q ∧
      t'.progress.queued = min n (t.progress.queued + q) ∧
      t'.mem.shifted = t.mem.shifted ∧ t'.wire = t.wire ∧ t'.answers = .returns :: rest ∧
      queueCall v n t' = .returned (t.mem.out.length - t.progress.queued) t'' ∧
      queueCall v n { t with answers := .returns :: rest } = .returned (t.mem.out.length - t.progress.queued) t'') ∧
  (∀ (off n q c : Nat) (t : Transport) (rest : List Answer), t.answers = .pending q c :: .returns :: rest → t.mem.wf = true →
    off + n ≤ t.mem.out.length →
    ∃ v t' t'', captureCall off n t = .waiting t' ∧ t'.mem.out = t.mem.out ∧ t.mem.shifted <+: t'.mem.shifted ∧
      t'.mem.clocked = (if t.progress.clocking = true ∨ t.mem.clocked < off + n then min (t.mem.clocked + c) t.mem.out.length
        else t.mem.clocked) ∧
      t'.answers = .returns :: rest ∧ captureCall off n t' = .returned v t'' ∧
      captureCall off n { t with answers := .returns :: rest } = .returned v t'')

/-- 20_memory.md R54, which the spec derives from R52 and R62: consecutive `Queue` calls return consecutive offsets, also when the first
has waited and has placed some of its positions (log 29). -/
def Obligations.ConsecutiveQueuesAreContiguous : Prop :=
  ∀ (v₁ n₁ v₂ n₂ o₁ : Nat) (t t₁ : Transport) (rest : List Answer), t₁.answers = .returns :: rest →
    t.progress.queued ≤ n₁ → t.progress.queued ≤ t.mem.out.length → queueCall v₁ n₁ t = .returned o₁ t₁ → ∃ t₂, queueCall v₂ n₂ t₁ = .returned (o₁ + n₁) t₂

/-- 20_memory.md R55, R56: a `Capture` of queued positions that returns reads the bits shifted in, first brings the bus up to date by
clocking everything pending (the spec's decision D6, log 23), also when it has begun to while it was waiting (log 29), and changes neither
`TR.out` nor a bit already shifted in. -/
def Obligations.CaptureReadsWhatWasShiftedIn : Prop :=
  ∀ (off n : Nat) (t : Transport) (rest : List Answer), t.mem.wf = true → t.answers = .returns :: rest →
    off + n ≤ t.mem.out.length →
    ∃ v t', captureCall off n t = .returned v t' ∧ v < 2 ^ n ∧
      (∀ i, i < n → t'.mem.readIn (off + i) = some (v.testBit i)) ∧
      t'.mem.clocked = (if t.progress.clocking = true ∨ t.mem.clocked < off + n then t.mem.out.length else t.mem.clocked) ∧
      t'.mem.out = t.mem.out ∧ (∀ p, p < t.mem.clocked → t'.mem.readIn p = t.mem.readIn p) ∧ t'.answers = rest

/-- 20_memory.md R60: a second capture of the same positions yields the same value and changes nothing. -/
def Obligations.CaptureIsIdempotent : Prop :=
  ∀ (off n v : Nat) (t t₁ : Transport) (rest : List Answer), t.mem.wf = true → captureCall off n t = .returned v t₁ →
    t₁.answers = .returns :: rest → captureCall off n t₁ = .returned v { t₁ with answers := rest }

/-- 20_memory.md R57 (the spec's decision D17): a capture of a position never queued fails, with a free failure value (log 12). Of the
buffer only this is known: `TR.out` is unchanged, and `TR.in` is at most lengthened, within what is queued (R66, U5). -/
def Obligations.UnqueuedCaptureFails : Prop :=
  ∀ (off n : Nat) (t : Transport) (rest : List Answer), t.answers = .returns :: rest → t.mem.out.length < off + n →
    ∃ t', captureCall off n t = .failed (Config.unqueuedCapture off n) t' ∧ t'.mem.out = t.mem.out ∧
      t.mem.shifted <+: t'.mem.shifted ∧ (t.mem.wf = true → t'.mem.wf = true) ∧ t'.answers = rest

/-- 20_memory.md R53 and R68: on a loopback, a capture over positions written by one queue of the same width sees the same value. -/
def Obligations.LoopbackReadsBackTheQueuedValue : Prop :=
  ∀ (v n : Nat) (t : Transport) (rest : List Answer), t.mem.wf = true → t.wire = .loopback →
    t.answers = .returns :: .returns :: rest → t.progress = Progress.none →
    ∃ t₁ t₂, queueCall v n t = .returned t.mem.out.length t₁ ∧
      captureCall t.mem.out.length n t₁ = .returned (v % 2 ^ n) t₂

/-- U5 (log 10): what a failed call may leave. A failed `Queue` gains at most `n` positions at the end; a failed `Capture` changes
nothing of `TR.out` and only lengthens `TR.in`, within what is queued. -/
def Obligations.FailedCallLeavesBoundedTraces : Prop :=
  ∀ (a n : Nat) (t : Transport) (e : TransportFailure) (g : List Bool) (c : Nat) (rest : List Answer), t.mem.wf = true →
    t.answers = .fails e g c :: rest →
    (∃ t', queueCall a n t = .failed e t' ∧ t.mem.out <+: t'.mem.out ∧ t'.mem.out.length ≤ t.mem.out.length + n ∧
      t'.mem.shifted = t.mem.shifted ∧ t'.answers = rest) ∧
    (∃ t', captureCall a n t = .failed e t' ∧ t'.mem.out = t.mem.out ∧ t.mem.shifted <+: t'.mem.shifted ∧
      t'.mem.wf = true ∧ t'.answers = rest)

/-! ## The engine, phase by phase -/

/-- 41_transaction_engine.md R143, R144: a phase is followed by the next row of the table, by FAILED if it makes a transport call, or by
itself while its call has not returned (R246). -/
def Obligations.PhasesFollowTheTable : Prop :=
  ∀ (s s' : State) (r : Request), s.req = some r → tick s = .next s' →
    s'.eng.phase = successor r.dir s.eng.phase ∨
    (s.eng.phase.calls = true ∧ (s'.eng.phase = .failed ∨ s'.eng.phase = s.eng.phase))

/-- R147 to R155: in a run, a phase whose call returns goes on to its successor with the call of its row made: eight, three, 32 and one
positions queued at the end of the buffer (those of them that a call that has waited has not placed yet, log 29), or a capture at `ack_off`,
`ack_off + 3`, `ack_off + 35` into its latch. The zeros queued as reserved, the 33rd of them and the order of the captures are the spec's
decisions D4, D5 and D7. -/
def Obligations.PhaseCallsFillTheirLatches : Prop :=
  ∀ (s : State) (r : Request) (rest : List Answer), s.Inv → s.req = some r → s.tr.answers = .returns :: rest →
    s.eng.phase.calls = true →
    ∃ s', tick s = .next s' ∧ s'.eng.phase = successor r.dir s.eng.phase ∧ s'.tr.answers = rest ∧
      s'.tr.mem.out = s.tr.mem.out ++ (r.phaseBits s.eng.phase).drop s.tr.progress.queued ∧
      s'.tr.progress = Progress.none ∧
      (s.eng.phase ≠ .qAck → s'.eng.ackOff = s.eng.ackOff) ∧
      (s.eng.phase = .qAck → s'.eng.ackOff = some (s.tr.mem.out.length - s.tr.progress.queued)) ∧
      (s.eng.phase = .cAck → ∃ off, s.eng.ackOff = some off ∧
        s'.eng.ack = some (BitVec.ofNat 3 (s'.tr.mem.valueAt off 3))) ∧
      (s.eng.phase = .cData → ∃ off, s.eng.ackOff = some off ∧
        s'.eng.data = some (BitVec.ofNat 32 (s'.tr.mem.valueAt (off + 3) 32))) ∧
      (s.eng.phase = .cPar → ∃ off, s.eng.ackOff = some off ∧ s'.eng.par = s'.tr.mem.readIn (off + 35))

/-- 60_exceptions.md R206 (the spec's decision D9) at one call: `ENG.err <- e`, `ENG.phase <- FAILED`, no Response; REQ and the caller are untouched. -/
def Obligations.FailedCallEntersFailed : Prop :=
  ∀ (s : State) (e : TransportFailure) (g : List Bool) (c : Nat) (rest : List Answer), s.Inv → s.eng.phase.calls = true →
    s.tr.answers = .fails e g c :: rest →
    ∃ s', tick s = .next s' ∧ s'.eng.phase = .failed ∧ s'.eng.err = some e ∧ s'.response = none ∧ s'.tr.answers = rest ∧
      s'.req = s.req ∧ s'.caller = s.caller ∧ s'.eng.ackOff = s.eng.ackOff ∧ s'.eng.ack = s.eng.ack ∧
      s'.eng.data = s.eng.data ∧ s'.eng.par = s.eng.par

/-- 70_reset_and_hazards.md R246 at one call: a call that has not returned holds the engine in its phase with every latch, REQ, the
Response and the caller as they are. No answer: nothing happens. Answered so: of the call's own effect on the buffer there is none, part or
all, in order: the next positions of a queue phase's row, the next pending positions clocked in a capture phase that has any to clock (the
model's choice, log 29; the answers as a list are log 8). -/
def Obligations.PendingCallHoldsThePhase : Prop :=
  ∀ (s : State) (r : Request), s.Inv → s.req = some r → s.eng.phase.calls = true →
    (s.tr.answers = [] → tick s = .next s) ∧
    (∀ q c rest, s.tr.answers = .pending q c :: rest →
      ∃ t, tick s = .next { s with tr := t } ∧ t.answers = rest ∧ t.mem.wf = true ∧
        t.mem.out = s.tr.mem.out ++ ((r.phaseBits s.eng.phase).drop s.tr.progress.queued).take q ∧
        t.mem.shifted.take s.tr.mem.clocked = s.tr.mem.shifted ∧
        (s.eng.phase.captures = false → t.mem.shifted = s.tr.mem.shifted ∧ t.wire = s.tr.wire) ∧
        (∀ off, s.eng.phase.captures = true → s.eng.ackOff = some off →
          t.mem.clocked =
            if s.tr.progress.clocking = true ∨ s.tr.mem.clocked < off + s.eng.phase.captureEnd then
              min (s.tr.mem.clocked + c) s.tr.mem.out.length
            else s.tr.mem.clocked))

/-- The frame of a phase (R140, R143, R156, 20_memory.md R52, R55, R65): REQ and the caller are untouched; a phase appends at most the
positions of its row, and only a queue phase any (a failed call's bits are log 10); only a capture phase shifts bits in or uses the wire;
a phase without a call leaves the transport alone; no bit queued or shifted in changes; only CLASSIFY and a failure write the Response;
and only the phase's own latch is written. -/
def Obligations.PhaseFrame : Prop :=
  ∀ (s s' : State), tick s = .next s' →
    s'.req = s.req ∧ s'.caller = s.caller ∧
    (∀ p, p < s.tr.mem.out.length → s'.tr.mem.readOut p = s.tr.mem.readOut p) ∧
    (∀ p, p < s.tr.mem.clocked → s'.tr.mem.readIn p = s.tr.mem.readIn p) ∧
    s.tr.mem.out.length ≤ s'.tr.mem.out.length ∧ s'.tr.mem.out.length ≤ s.tr.mem.out.length + s.eng.phase.queueWidth ∧
    (s.eng.phase.queueWidth = 0 → s'.tr.mem.out = s.tr.mem.out) ∧
    (s.eng.phase.captures = false → s'.tr.mem.shifted = s.tr.mem.shifted ∧ s'.tr.wire = s.tr.wire) ∧
    (s.tr.mem.wf = true → s'.tr.mem.wf = true) ∧ s'.tr.answers <:+ s.tr.answers ∧
    (s.eng.phase.calls = false → s'.tr = s.tr) ∧
    (s.eng.phase ≠ .classify → s.eng.phase.calls = false ∨ s'.eng.phase ≠ .failed → s'.response = s.response) ∧
    (s.eng.phase.calls = true → s'.eng.phase = .failed → s'.response = none) ∧
    (s.eng.phase ≠ .qAck → s'.eng.ackOff = s.eng.ackOff) ∧ (s.eng.phase ≠ .cAck → s'.eng.ack = s.eng.ack) ∧
    (s.eng.phase ≠ .cData → s'.eng.data = s.eng.data) ∧ (s.eng.phase ≠ .cPar → s'.eng.par = s.eng.par) ∧
    (s'.eng.phase ≠ .failed → s'.eng.err = s.eng.err)

/-! ## The sixteen requests and the four kinds -/

/-- R161, R162: every Read, all ten constructors, whole. In IDLE, on a buffer of the transport's form, with its seven calls answered, it
queues its 44-position frame at the end of the buffer, clocks the bus, captures ack, data and parity at `ack_off`, `ack_off + 3` and
`ack_off + 35`, and presents `Classify_Read` of them; exactly seven answers are taken whatever the ack. Bit order, fill, clocking, capture
order and the presented data are the spec's decisions D1 and D4 to D8; the generic rows are log 4. -/
def Obligations.ReadRequestCompletes : Prop :=
  ∀ (i : Instr) (idx : Index) (ap : Bool) (s : State) (rest : List Answer), readTarget i = some (idx, ap) →
    s.eng.phase = .idle → s.tr.mem.wf = true → s.tr.answers = List.replicate 7 .returns ++ rest →
    let r := tableRead idx ap
    let t := Transport.afterFrame r { s.tr with answers := rest }
    let b := s.tr.mem.out.length
    let ack := BitVec.ofNat 3 (t.mem.valueAt (b + 8) 3)
    let data := BitVec.ofNat 32 (t.mem.valueAt (b + 11) 32)
    let par := (t.mem.valueAt (b + 43) 1).testBit 0
    exec i s = .next { s with
      req := some r
      eng := { phase := .done, ackOff := some (b + 8), ack := some ack, data := some data, par := some par, err := none }
      response := some (classifyRead ack data par)
      tr := t }

/-- R163, R164: every Write, ten constructors, whole. It queues header, reserved ack bits, payload and parity, captures the ack alone,
and presents `Classify_Write` of it; exactly five answers are taken whatever the ack. Bit order, fill and clocking are the spec's decisions
D1, D4 and D6; the generic rows are log 4. -/
def Obligations.WriteRequestCompletes : Prop :=
  ∀ (i : Instr) (idx : Index) (ap : Bool) (w : Word) (s : State) (rest : List Answer), writeTarget i = some (idx, ap, w) →
    s.eng.phase = .idle → s.tr.mem.wf = true → s.tr.answers = List.replicate 5 .returns ++ rest →
    let r := tableWrite idx ap w
    let t := Transport.afterFrame r { s.tr with answers := rest }
    let b := s.tr.mem.out.length
    let ack := BitVec.ofNat 3 (t.mem.valueAt (b + 8) 3)
    exec i s = .next { s with
      req := some r
      eng := { phase := .done, ackOff := some (b + 8), ack := some ack, data := none, par := none, err := none }
      response := some (classifyWrite ack)
      tr := t }

/-- The eight ack patterns (R156, R184, R186, R187; run as instructions by log 5), whole: in CLASSIFY the Response is presented, the
phase is DONE, and nothing else changes. -/
def Obligations.AckPatternCompletes : Prop :=
  ∀ (i : Instr) (a : AckBits) (r : Request) (s : State), i.ackPattern = some a → s.eng.phase = .classify → s.req = some r →
    (r.dir = .write →
      exec i s = .next { s with eng := { s.eng with phase := .done }, response := some (classifyWrite a) }) ∧
    (∀ d p, r.dir = .read → s.eng.data = some d → s.eng.par = some p →
      exec i s = .next { s with
        eng := { s.eng with phase := .done }
        response := some (classifyRead a d p) })

/-- The frame of a request that answers a next state, in whatever phase its calls leave it (R65, R86, R140, R159): REQ is the Request, the
caller is untouched, at most 44 positions are appended (also by a failed call: U5, log 10), and no bit queued or shifted in before changes. -/
def Obligations.RequestFrame : Prop :=
  ∀ (i : Instr) (r : Request) (s s' : State), requestOf i = some r → exec i s = .next s' →
    s'.req = some r ∧ s'.caller = s.caller ∧
    s'.tr.mem.out.length ≤ s.tr.mem.out.length + 44 ∧
    (∀ p, p < s.tr.mem.out.length → s'.tr.mem.readOut p = s.tr.mem.readOut p) ∧
    (∀ p, p < s.tr.mem.clocked → s'.tr.mem.readIn p = s.tr.mem.readIn p)

/-- R206 (the spec's decision D9) over a whole `send`: the first failing call, whichever it is, ends the request in FAILED with its failure unchanged, no Response,
and no later call made. -/
def Obligations.FirstFailureEndsTheRequest : Prop :=
  ∀ (i : Instr) (r : Request) (s : State) (k : Nat) (e : TransportFailure) (g : List Bool) (c : Nat) (rest : List Answer),
    requestOf i = some r → s.eng.phase = .idle → s.tr.mem.wf = true → k < callsOf r.dir →
    s.tr.answers = List.replicate k .returns ++ .fails e g c :: rest →
    ∃ s', exec i s = .next s' ∧ s'.eng.phase = .failed ∧ s'.eng.err = some e ∧ s'.response = none ∧ s'.req = some r ∧
      s'.tr.answers = rest ∧
      s.tr.mem.out ++ (frameBits r).take ([0, 8, 11, 43].getD k 44) <+: s'.tr.mem.out

/-- R246 over a whole `send`: a call that has not returned holds the engine in that call's phase, with the positions of the calls before
it queued, no Response and no failure. The call is one answered so, or one that no answer is left for, as after reset (log 8). Of its own
effect there is what the answer says, none, part or all (the model's choice, log 29): the first positions of a queue call, the first pending
positions clocked by the first capture; the later captures have nothing to clock (R60). -/
def Obligations.UnansweredCallHoldsTheRequest : Prop :=
  ∀ (i : Instr) (r : Request) (s : State) (k q c : Nat) (tail : List Answer),
    requestOf i = some r → s.eng.phase = .idle → s.tr.mem.wf = true → k < callsOf r.dir →
    (tail = [] ∧ q = 0 ∧ c = 0) ∨ (∃ rest, tail = .pending q c :: rest) → s.tr.answers = List.replicate k .returns ++ tail →
    ∃ s', exec i s = .next s' ∧ some s'.eng.phase = (callPhases r.dir)[k]? ∧ s'.eng.err = none ∧ s'.response = none ∧
      s'.req = some r ∧ s'.caller = s.caller ∧ s'.tr.answers = tail.tail ∧
      s'.tr.mem.out = s.tr.mem.out ++ (frameBits r).take (min ([0, 8, 11, 43].getD k 44 + q) ([8, 11, 43].getD k 44)) ∧
      s.tr.mem.shifted <+: s'.tr.mem.shifted ∧
      s'.tr.mem.clocked =
        (if k < 4 then s.tr.mem.clocked
        else if k = 4 then min (s.tr.mem.clocked + c) s'.tr.mem.out.length
        else s'.tr.mem.out.length)

/-- R209: the outcome is the first that applies: a transport failure at the earliest failing call; else the ack, if it is not ACK, whatever
data and parity are; else, for a Read, a parity mismatch; else ACK. -/
def Obligations.OutcomePriority : Prop :=
  ∀ (i : Instr) (r : Request) (s : State), requestOf i = some r → s.eng.phase = .idle →
    (∀ (k : Nat) (e : TransportFailure) (g : List Bool) (c : Nat) (rest : List Answer), k < callsOf r.dir →
      s.tr.answers = List.replicate k .returns ++ .fails e g c :: rest →
      ∃ s', exec i s = .next s' ∧ s'.eng.phase = .failed ∧ s'.eng.err = some e ∧ s'.response = none) ∧
    (∀ rest, s.tr.answers = List.replicate (callsOf r.dir) .returns ++ rest →
      ∃ s' a resp, exec i s = .next s' ∧ s'.eng.phase = .done ∧ s'.eng.ack = some a ∧ s'.response = some resp ∧
        (a = 0b010#3 → resp.status = .wait) ∧ (a = 0b100#3 → resp.status = .fault) ∧
        (a ≠ 0b001#3 → a ≠ 0b010#3 → a ≠ 0b100#3 → resp.status = .invalid) ∧
        (a = 0b001#3 → r.dir = .write → resp.status = .ack) ∧
        (a = 0b001#3 → r.dir = .read → ∃ d p, s'.eng.data = some d ∧ s'.eng.par = some p ∧
          (parity32 d ≠ p → resp.status = .invalid) ∧ (parity32 d = p → resp.status = .ack)))

/-- R37: "the state machine is entered fresh per transaction": a request's outcome depends on no latch of an earlier one. -/
def Obligations.EachTransactionStartsFresh : Prop :=
  ∀ (i : Instr) (r : Request) (s₁ s₂ : State), requestOf i = some r → s₁.eng.phase = .idle → s₂.eng.phase = .idle →
    s₁.tr = s₂.tr → s₁.caller = s₂.caller → exec i s₁ = exec i s₂

/-- R62, R208: nothing the caller means to do next, and nothing it has been handed, can touch a request. -/
def Obligations.CallerCannotTouchARequest : Prop :=
  ∀ (i : Instr) (s s' : State) (c : Caller), exec i s = .next s' → exec i { s with caller := c } = .next { s' with caller := c }

/-- R166, which the spec derives: the phase machine and the one function `send` of R142 are the same `send`, for every request, every transport and every
sequence of answers. -/
def Obligations.PhaseMachineIsSend : Prop :=
  ∀ (i : Instr) (r : Request) (s : State), requestOf i = some r → s.eng.phase = .idle →
    ∃ s', exec i s = .next s' ∧ s'.req = some r ∧ s'.caller = s.caller ∧
      match send r.header r.payload s.tr with
      | .response resp t => s'.eng.phase = .done ∧ s'.response = some resp ∧ s'.tr = t
      | .transportError e t => s'.eng.phase = .failed ∧ s'.eng.err = some e ∧ s'.response = none ∧ s'.tr = t
      | .notReturned t => s'.eng.phase.calls = true ∧ s'.response = none ∧ s'.tr = t

/-- R165, R68: on a loopback, the data and parity positions of a Write of `w` read back as `w` and its parity, at the offsets at which a
Read captures. -/
def Obligations.WriteReadsBackOnLoopback : Prop :=
  ∀ (i : Instr) (idx : Index) (ap : Bool) (w : Word) (s : State) (rest : List Answer), writeTarget i = some (idx, ap, w) →
    s.eng.phase = .idle → s.tr.mem.wf = true → s.tr.wire = .loopback →
    s.tr.answers = List.replicate 7 .returns ++ rest →
    ∃ s' off t₁ t₂, exec i s = .next s' ∧ s'.eng.ackOff = some off ∧
      captureCall (off + 3) 32 s'.tr = .returned w.toNat t₁ ∧
      captureCall (off + 35) 1 t₁ = .returned (parity32 w).toNat t₂ ∧
      s'.response = some ⟨.invalid, none⟩

/-! ## The machine -/

/-- A step runs the request handed over: in IDLE, `step` is `exec` of the decoded instruction, on the state with the hand-off taken off
the caller's list (log 2). -/
def Obligations.StepRunsTheRequestHandedOver : Prop :=
  ∀ (s : State), s.eng.phase = .idle →
    (∀ bytes cs i tail, s.caller.commands = .word bytes :: cs → decode bytes = .ok (i, tail) → i.ackPattern = none →
      step s = exec i { s with caller := { s.caller with commands := cs } }) ∧
    (∀ n p cs, s.caller.commands = .request n false .read p :: cs →
      step s = exec (.rdDp n p) { s with caller := { s.caller with commands := cs } }) ∧
    (∀ n p cs, s.caller.commands = .request n true .read p :: cs →
      step s = exec (.rdAp n p) { s with caller := { s.caller with commands := cs } }) ∧
    (∀ n p cs, s.caller.commands = .request n false .write p :: cs →
      step s = exec (.wrDp n p) { s with caller := { s.caller with commands := cs } }) ∧
    (∀ n p cs, s.caller.commands = .request n true .write p :: cs →
      step s = exec (.wrAp n p) { s with caller := { s.caller with commands := cs } })

/-- R63, R211 (log 18): a request is refused in every phase but IDLE; and an ack pattern in every phase but CLASSIFY (R143, log 5). -/
def Obligations.OutOfPhaseIsRefused : Prop :=
  (∀ (i : Instr) (r : Request) (s : State), requestOf i = some r → s.eng.phase ≠ .idle →
    exec i s = .refused .transactionInProgress) ∧
  (∀ (i : Instr) (a : AckBits) (s : State), i.ackPattern = some a → s.eng.phase ≠ .classify → exec i s = .refused .notClassifying)

/-- R84, R91, U14, R119, R141, R214 (log 18): what an IDLE engine refuses at the hand-off: bytes that begin with none of the 16 headers or
are none at all, a Write header without the four bytes of its payload (log 3), `send` with nothing built, and a take with no result. -/
def Obligations.HandOffRefusals : Prop :=
  ∀ (s : State) (cs : List Command), s.eng.phase = .idle →
    (s.caller.commands = .word [] :: cs → step s = .refused .notAHeader) ∧
    (∀ (h : Byte) (tail : List Byte), s.caller.commands = .word (h :: tail) :: cs →
      ((∀ idx ap dir, h ≠ headerTable dir ap idx) → step s = .refused .notAHeader) ∧
      (∀ idx ap, h = headerTable .write ap idx → tail.length < 4 → step s = .refused .writeWithoutPayload)) ∧
    (s.caller.commands = .send :: cs → s.req = none → step s = .refused .noRequestBuilt) ∧
    (s.caller.commands = .take :: cs → step s = .refused .nothingToTake)

/-- R50, R61, R211 (log 19): between sends the caller may call the transport itself: it is handed the offset, the value or the failure, the
transport is as the call leaves it, and the block is untouched; a call that has not returned is still the next command. -/
def Obligations.CallerCallsTheTransport : Prop :=
  ∀ (s : State) (cs : List Command) (a n v : Nat) (e : TransportFailure) (t : Transport), s.eng.phase = .idle →
    (s.caller.commands = .queue a n :: cs →
      (queueCall a n s.tr = .returned v t →
        step s = .next { s with tr := t, caller := { commands := cs, received := s.caller.received ++ [.offset v] } }) ∧
      (queueCall a n s.tr = .failed e t →
        step s = .next { s with tr := t, caller := { commands := cs, received := s.caller.received ++ [.transportError e] } }) ∧
      (queueCall a n s.tr = .waiting t → step s = .next { s with tr := t })) ∧
    (s.caller.commands = .capture a n :: cs →
      (captureCall a n s.tr = .returned v t →
        step s = .next { s with tr := t, caller := { commands := cs, received := s.caller.received ++ [.value v] } }) ∧
      (captureCall a n s.tr = .failed e t →
        step s = .next { s with tr := t, caller := { commands := cs, received := s.caller.received ++ [.transportError e] } }) ∧
      (captureCall a n s.tr = .waiting t → step s = .next { s with tr := t }))

/-- In CLASSIFY, `step` is `exec` of the pattern in `ENG.ack` (log 5), unless the block is being reset. -/
def Obligations.StepRunsTheLatchedAckPattern : Prop :=
  ∀ (s : State) (a : AckBits), s.eng.phase = .classify → s.eng.ack = some a → s.caller.commands.head? ≠ some .reset →
    step s = exec (ackInstr a) s ∧ decode [a.zeroExtend 8] = .ok (ackInstr a, []) ∧ (ackInstr a).ackPattern = some a

/-- R121, which the spec derives, R140, R214: the caller's `send` of the Request it holds is that Request's own run, however its calls end:
the step is `exec` of every instruction that stands for the Request, and every built Request has one. So the same Request sent again queues
the same frame at the next positions, and REQ stays as it is. The caller's list of commands is log 2. -/
def Obligations.ResendingQueuesTheSameFrame : Prop :=
  (∀ (s : State) (r : Request) (cs : List Command), s.eng.phase = .idle → s.req = some r → s.caller.commands = .send :: cs →
    ∀ i : Instr, requestOf i = some r → step s = exec i { s with caller := { s.caller with commands := cs } }) ∧
  (∀ r : Request, r.built = true ↔ ∃ i, requestOf i = some r) ∧
  (∀ (s : State) (r : Request) (cs : List Command) (rest : List Answer), s.eng.phase = .idle → s.req = some r → r.built = true →
    s.tr.mem.wf = true → s.caller.commands = .send :: cs → s.tr.answers = List.replicate (callsOf r.dir) .returns ++ rest →
    ∃ s', step s = .next s' ∧ s'.eng.phase = .done ∧ s'.response.isSome = true ∧ s'.req = some r ∧
      s'.tr.mem.out = s.tr.mem.out ++ frameBits r ∧ s'.tr.answers = rest)

/-- R110: construction latches REQ and does nothing else. -/
def Obligations.BuildOnlyLatchesTheRequest : Prop :=
  ∀ (s : State) (n : Nat) (ap : Bool) (dir : Direction) (p : Option Word) (r : Request) (cs : List Command),
    s.eng.phase = .idle → s.caller.commands = .build n ap dir p :: cs → buildRequest n ap dir p = some r →
    step s = .next { s with req := some r, caller := { s.caller with commands := cs } }

/-- R208: in the middle of a transaction, nothing the caller means to do next, but for the reset input, can touch a step. -/
def Obligations.NothingInterruptsATransaction : Prop :=
  ∀ (s s' : State) (c : Caller), s.eng.phase.calls = true → s.caller.commands.head? ≠ some .reset →
    c.commands.head? ≠ some .reset → step s = .next s' → step { s with caller := c } = .next { s' with caller := c }

/-- R144 (c), R157, R210: in DONE the Response is presented until the caller takes it; then the engine is IDLE and holds nothing of the
transaction, and REQ lives on (log 17). A caller whose next command is another, but for reset, has taken it (log 16), and the command is
still to come. The caller's list of commands is log 2, what it has been handed log 16. -/
def Obligations.TakingTheResponseReturnsToIdle : Prop :=
  ∀ (s : State) (r : Response), s.eng.phase = .done → s.response = some r →
    (s.caller.commands = [] → step s = .next s) ∧
    (∀ cs, s.caller.commands = .take :: cs →
      step s = .next { s with
        eng := Engine.empty
        response := none
        caller := { commands := cs, received := s.caller.received ++ [.response r] } }) ∧
    (∀ c cs, s.caller.commands = c :: cs → c ≠ .take → c ≠ .reset →
      step s = .next { s with
        eng := Engine.empty
        response := none
        caller := { commands := c :: cs, received := s.caller.received ++ [.response r] } })

/-- R144 (c), R206 and R221 (log 15): in FAILED the failure is handed over unchanged and the engine is IDLE again if the caller takes it;
a run whose caller does not ends in the fault that carries it. -/
def Obligations.FailureIsReportedUnchanged : Prop :=
  ∀ (s : State) (e : TransportFailure), s.eng.phase = .failed → s.eng.err = some e →
    (∀ cs, s.caller.commands = .take :: cs →
      step s = .next { s with
        eng := Engine.empty
        response := none
        caller := { commands := cs, received := s.caller.received ++ [.transportError e] } }) ∧
    (s.caller.commands.head? ≠ some .take → s.caller.commands.head? ≠ some .reset → step s = .fault (.transportError e))

/-- R38, R230 (the spec's decision D11): the machine after reset: IDLE, no value in any latch, no Response; and in every IDLE state the
block does nothing until the caller does something. That the caller's list is empty after reset is the model's choice (log 2). -/
def Obligations.ResetHoldsNoValues : Prop :=
  State.reset.eng.phase = .idle ∧ State.reset.req = none ∧ State.reset.eng.ackOff = none ∧ State.reset.eng.ack = none ∧
  State.reset.eng.data = none ∧ State.reset.eng.par = none ∧ State.reset.eng.err = none ∧ State.reset.response = none ∧
  step State.reset = .next State.reset ∧
  ∀ s : State, s.eng.phase = .idle → s.caller.commands = [] → step s = .next s

/-- R231 (the spec's decision D11; log 20): reset in any phase: IDLE, no value in any latch, no Response; the bits already queued stay, and
so does what has been clocked. Of a call that had not returned nothing more happens (the model's choice, log 29). -/
def Obligations.ResetInputClearsTheBlockOnly : Prop :=
  ∀ (s : State) (cs : List Command), s.caller.commands = .reset :: cs →
    step s = .next { req := none, eng := Engine.empty, response := none, tr := { s.tr with progress := Progress.none },
                     caller := { s.caller with commands := cs } }

/-- R231: a reset during a transaction: "the target may have seen none, part or all of the frame". For every request and every number of
pending positions there is an environment in which a reset in `C_ACK` finds the whole frame queued and exactly that many clocked; and
likewise one in which a reset in `Q_HDR` finds exactly the first `m` positions of the header queued. How a waiting call tells what it has
done is the model's choice (log 29), where a reset can land log 20. -/
def Obligations.ResetFindsNonePartOrAllOfTheFrame : Prop :=
  ∀ (i : Instr) (r : Request) (s : State) (cs : List Command), requestOf i = some r → s.eng.phase = .idle → s.tr.mem.wf = true →
    s.caller.commands = .reset :: cs →
    (∀ m, s.tr.mem.clocked + m ≤ s.tr.mem.out.length + 44 → ∃ as s₁ s₂,
      exec i { s with tr := { s.tr with answers := as } } = .next s₁ ∧ s₁.eng.phase = .cAck ∧ step s₁ = .next s₂ ∧
      s₂.eng = Engine.empty ∧ s₂.req = none ∧ s₂.response = none ∧
      s₂.tr.mem.out = s.tr.mem.out ++ frameBits r ∧ s₂.tr.mem.clocked = s.tr.mem.clocked + m) ∧
    (∀ m, m ≤ 8 → ∃ as s₁ s₂,
      exec i { s with tr := { s.tr with answers := as } } = .next s₁ ∧ s₁.eng.phase = .qHdr ∧ step s₁ = .next s₂ ∧
      s₂.eng = Engine.empty ∧ s₂.req = none ∧ s₂.response = none ∧
      s₂.tr.mem.out = s.tr.mem.out ++ (frameBits r).take m ∧ s₂.tr.mem.shifted = s.tr.mem.shifted)

/-- The invariant holds at reset. -/
def Obligations.ResetMeetsTheInvariant : Prop := State.reset.Inv

/-- Every step keeps the invariant: the buffer's form (R51), built Requests only (R21, R26), every latch written before the phase that
reads it (R143), the frame where the captures expect it (R54). -/
def Obligations.EveryStepKeepsTheInvariant : Prop :=
  ∀ (s s' : State), s.Inv → step s = .next s' → s'.Inv

/-- R38: "no run of the engine meets that fault": from a state of the invariant no step reads a latch that holds no value. -/
def Obligations.NoStepReadsAnUnwrittenLatch : Prop :=
  ∀ (s : State) (l : Latch), s.Inv → step s ≠ .fault (.unwrittenLatch l)

/-- R57, R206: every capture the engine makes is within the contract, so a failure in ENG.err is one the transport answered. -/
def Obligations.FailuresComeFromTheTransport : Prop :=
  ∀ (s s' : State), s.Inv → s.eng.phase ≠ .failed → step s = .next s' → s'.eng.phase = .failed →
    ∃ e g c, .fails e g c ∈ s.tr.answers ∧ s'.eng.err = some e

/-- A transaction in progress, wherever it stands (R142 to R144, R206, R246, R249). A step makes the call of its phase: if that fails (the
phase is FAILED) or has not returned (the phase is unchanged), the step ends there, and else it goes on as a step from the next phase. If
every call returns, it ends with the Response that the latched ack and, for a Read, data and parity classify to (R156, R186, R187). That
this is one step of the machine is the model's grain (log 1): the engine's own step is one phase (R13), and D10 leaves the grain free. -/
def Obligations.AnsweredTransactionsReachDone : Prop :=
  ∀ (s : State), s.Inv → s.eng.phase.calls = true → s.caller.commands.head? ≠ some .reset →
    (∀ s₁, tick s = .next s₁ →
      step s = if s₁.eng.phase = s.eng.phase ∨ s₁.eng.phase = .failed then .next s₁ else step s₁) ∧
    (∀ (r : Request) (rest : List Answer), s.req = some r → s.tr.answers = List.replicate 7 .returns ++ rest →
      ∃ s' a resp, step s = .next s' ∧ s'.eng.phase = .done ∧ s'.response = some resp ∧ s'.req = some r ∧ s'.eng.ack = some a ∧
        (r.dir = .write → resp = classifyWrite a) ∧
        (r.dir = .read → ∃ d p, s'.eng.data = some d ∧ s'.eng.par = some p ∧ resp = classifyRead a d p))
end

