-- ==== Sys2Proof/Laws/Codec.lean ====
section
/-! SUPPORT. The header codec and the byte form of a payload (30_encoding.md R83, R84, 40_request_codec.md R118). -/

namespace Sys2Proof.Machine

/-- The closed form of R118 gives the table of R83. -/
theorem headerOf_eq_table (dir : Direction) (ap : Bool) (idx : Index) : headerOf idx ap dir = headerTable dir ap idx := by
  cases dir <;> cases ap <;> revert idx <;> decide

/-- The two low bits are the index modulo 4 (R111). -/
theorem maskIndex_eq_mod (n : Nat) : maskIndex n = BitVec.ofNat 2 (n % 4) := by
  simp [maskIndex, ← BitVec.toNat_inj]

/-- A Request comes out of construction built (R26, R119). -/
theorem buildRequest_built (n : Nat) (ap : Bool) (dir : Direction) (p : Option Word) (r : Request)
    (h : buildRequest n ap dir p = some r) : r.built = true := by
  cases dir <;> cases p <;> simp [buildRequest] at h <;> subst h <;> simp [Request.built]

/-- A payload is read back from its four bytes. -/
theorem payloadOfBytes_payloadBytes (w : Word) :
    payloadOfBytes (w.extractLsb' 0 8) (w.extractLsb' 8 8) (w.extractLsb' 16 8) (w.extractLsb' 24 8) = w := by
  apply BitVec.eq_of_getLsbD_eq
  intro i hi
  simp only [payloadOfBytes, BitVec.getLsbD_append, BitVec.getLsbD_extractLsb']
  grind

/-- Four bytes are read back from their payload. -/
theorem payloadBytes_payloadOfBytes (b0 b1 b2 b3 : Byte) : payloadBytes (payloadOfBytes b0 b1 b2 b3) = [b0, b1, b2, b3] := by
  simp only [payloadBytes, payloadOfBytes, List.cons.injEq, and_true]
  refine ⟨?_, ?_, ?_, ?_⟩ <;> apply BitVec.eq_of_getLsbD_eq <;> intro i hi <;>
    simp only [BitVec.getLsbD_append, BitVec.getLsbD_extractLsb'] <;> grind

/-- A payload's bytes are taken off the front whole. -/
theorem takePayload_payloadBytes (w : Word) (rest : List Byte) : takePayload (payloadBytes w ++ rest) = some (w, rest) := by
  simp [payloadBytes, takePayload, payloadOfBytes_payloadBytes]

/-- What is taken off the front as a payload is a payload's bytes. -/
theorem eq_of_takePayload (bytes rest : List Byte) (w : Word) (h : takePayload bytes = some (w, rest)) :
    bytes = payloadBytes w ++ rest := by
  rcases bytes with _ | ⟨b0, _ | ⟨b1, _ | ⟨b2, _ | ⟨b3, tail⟩⟩⟩⟩ <;> simp [takePayload] at h
  obtain ⟨rfl, rfl⟩ := h
  rw [payloadBytes_payloadOfBytes]
  rfl

end Sys2Proof.Machine
end

