-- ==== Sys2Proof/Laws/State.lean ====
section
/-! SUPPORT. One lemma per field per update of the state (Machine/Ops.lean). -/

namespace Sys2Proof.Machine

/-! ENG with no value (R38). -/

@[simp] theorem Engine.empty_phase : Engine.empty.phase = .idle := rfl
@[simp] theorem Engine.empty_ackOff : Engine.empty.ackOff = none := rfl
@[simp] theorem Engine.empty_ack : Engine.empty.ack = none := rfl
@[simp] theorem Engine.empty_data : Engine.empty.data = none := rfl
@[simp] theorem Engine.empty_par : Engine.empty.par = none := rfl
@[simp] theorem Engine.empty_err : Engine.empty.err = none := rfl

variable (s : State)

@[simp] theorem State.setPhase_req (p : Phase) : (State.setPhase p s).req = s.req := rfl
@[simp] theorem State.setPhase_eng_phase (p : Phase) : (State.setPhase p s).eng.phase = p := rfl
@[simp] theorem State.setPhase_eng_ackOff (p : Phase) : (State.setPhase p s).eng.ackOff = s.eng.ackOff := rfl
@[simp] theorem State.setPhase_eng_ack (p : Phase) : (State.setPhase p s).eng.ack = s.eng.ack := rfl
@[simp] theorem State.setPhase_eng_data (p : Phase) : (State.setPhase p s).eng.data = s.eng.data := rfl
@[simp] theorem State.setPhase_eng_par (p : Phase) : (State.setPhase p s).eng.par = s.eng.par := rfl
@[simp] theorem State.setPhase_eng_err (p : Phase) : (State.setPhase p s).eng.err = s.eng.err := rfl
@[simp] theorem State.setPhase_response (p : Phase) : (State.setPhase p s).response = s.response := rfl
@[simp] theorem State.setPhase_tr (p : Phase) : (State.setPhase p s).tr = s.tr := rfl
@[simp] theorem State.setPhase_caller_commands (p : Phase) : (State.setPhase p s).caller.commands = s.caller.commands := rfl
@[simp] theorem State.setPhase_caller_received (p : Phase) : (State.setPhase p s).caller.received = s.caller.received := rfl

@[simp] theorem State.setAckOff_req (off : Nat) : (State.setAckOff off s).req = s.req := rfl
@[simp] theorem State.setAckOff_eng_phase (off : Nat) : (State.setAckOff off s).eng.phase = s.eng.phase := rfl
@[simp] theorem State.setAckOff_eng_ackOff (off : Nat) : (State.setAckOff off s).eng.ackOff = some off := rfl
@[simp] theorem State.setAckOff_eng_ack (off : Nat) : (State.setAckOff off s).eng.ack = s.eng.ack := rfl
@[simp] theorem State.setAckOff_eng_data (off : Nat) : (State.setAckOff off s).eng.data = s.eng.data := rfl
@[simp] theorem State.setAckOff_eng_par (off : Nat) : (State.setAckOff off s).eng.par = s.eng.par := rfl
@[simp] theorem State.setAckOff_eng_err (off : Nat) : (State.setAckOff off s).eng.err = s.eng.err := rfl
@[simp] theorem State.setAckOff_response (off : Nat) : (State.setAckOff off s).response = s.response := rfl
@[simp] theorem State.setAckOff_tr (off : Nat) : (State.setAckOff off s).tr = s.tr := rfl
@[simp] theorem State.setAckOff_caller_commands (off : Nat) : (State.setAckOff off s).caller.commands = s.caller.commands := rfl
@[simp] theorem State.setAckOff_caller_received (off : Nat) : (State.setAckOff off s).caller.received = s.caller.received := rfl

@[simp] theorem State.setAck_req (a : AckBits) : (State.setAck a s).req = s.req := rfl
@[simp] theorem State.setAck_eng_phase (a : AckBits) : (State.setAck a s).eng.phase = s.eng.phase := rfl
@[simp] theorem State.setAck_eng_ackOff (a : AckBits) : (State.setAck a s).eng.ackOff = s.eng.ackOff := rfl
@[simp] theorem State.setAck_eng_ack (a : AckBits) : (State.setAck a s).eng.ack = some a := rfl
@[simp] theorem State.setAck_eng_data (a : AckBits) : (State.setAck a s).eng.data = s.eng.data := rfl
@[simp] theorem State.setAck_eng_par (a : AckBits) : (State.setAck a s).eng.par = s.eng.par := rfl
@[simp] theorem State.setAck_eng_err (a : AckBits) : (State.setAck a s).eng.err = s.eng.err := rfl
@[simp] theorem State.setAck_response (a : AckBits) : (State.setAck a s).response = s.response := rfl
@[simp] theorem State.setAck_tr (a : AckBits) : (State.setAck a s).tr = s.tr := rfl
@[simp] theorem State.setAck_caller_commands (a : AckBits) : (State.setAck a s).caller.commands = s.caller.commands := rfl
@[simp] theorem State.setAck_caller_received (a : AckBits) : (State.setAck a s).caller.received = s.caller.received := rfl

@[simp] theorem State.setData_req (d : Word) : (State.setData d s).req = s.req := rfl
@[simp] theorem State.setData_eng_phase (d : Word) : (State.setData d s).eng.phase = s.eng.phase := rfl
@[simp] theorem State.setData_eng_ackOff (d : Word) : (State.setData d s).eng.ackOff = s.eng.ackOff := rfl
@[simp] theorem State.setData_eng_ack (d : Word) : (State.setData d s).eng.ack = s.eng.ack := rfl
@[simp] theorem State.setData_eng_data (d : Word) : (State.setData d s).eng.data = some d := rfl
@[simp] theorem State.setData_eng_par (d : Word) : (State.setData d s).eng.par = s.eng.par := rfl
@[simp] theorem State.setData_eng_err (d : Word) : (State.setData d s).eng.err = s.eng.err := rfl
@[simp] theorem State.setData_response (d : Word) : (State.setData d s).response = s.response := rfl
@[simp] theorem State.setData_tr (d : Word) : (State.setData d s).tr = s.tr := rfl
@[simp] theorem State.setData_caller_commands (d : Word) : (State.setData d s).caller.commands = s.caller.commands := rfl
@[simp] theorem State.setData_caller_received (d : Word) : (State.setData d s).caller.received = s.caller.received := rfl

@[simp] theorem State.setPar_req (p : Bool) : (State.setPar p s).req = s.req := rfl
@[simp] theorem State.setPar_eng_phase (p : Bool) : (State.setPar p s).eng.phase = s.eng.phase := rfl
@[simp] theorem State.setPar_eng_ackOff (p : Bool) : (State.setPar p s).eng.ackOff = s.eng.ackOff := rfl
@[simp] theorem State.setPar_eng_ack (p : Bool) : (State.setPar p s).eng.ack = s.eng.ack := rfl
@[simp] theorem State.setPar_eng_data (p : Bool) : (State.setPar p s).eng.data = s.eng.data := rfl
@[simp] theorem State.setPar_eng_par (p : Bool) : (State.setPar p s).eng.par = some p := rfl
@[simp] theorem State.setPar_eng_err (p : Bool) : (State.setPar p s).eng.err = s.eng.err := rfl
@[simp] theorem State.setPar_response (p : Bool) : (State.setPar p s).response = s.response := rfl
@[simp] theorem State.setPar_tr (p : Bool) : (State.setPar p s).tr = s.tr := rfl
@[simp] theorem State.setPar_caller_commands (p : Bool) : (State.setPar p s).caller.commands = s.caller.commands := rfl
@[simp] theorem State.setPar_caller_received (p : Bool) : (State.setPar p s).caller.received = s.caller.received := rfl

@[simp] theorem State.setTr_req (t : Transport) : (State.setTr t s).req = s.req := rfl
@[simp] theorem State.setTr_eng_phase (t : Transport) : (State.setTr t s).eng.phase = s.eng.phase := rfl
@[simp] theorem State.setTr_eng_ackOff (t : Transport) : (State.setTr t s).eng.ackOff = s.eng.ackOff := rfl
@[simp] theorem State.setTr_eng_ack (t : Transport) : (State.setTr t s).eng.ack = s.eng.ack := rfl
@[simp] theorem State.setTr_eng_data (t : Transport) : (State.setTr t s).eng.data = s.eng.data := rfl
@[simp] theorem State.setTr_eng_par (t : Transport) : (State.setTr t s).eng.par = s.eng.par := rfl
@[simp] theorem State.setTr_eng_err (t : Transport) : (State.setTr t s).eng.err = s.eng.err := rfl
@[simp] theorem State.setTr_response (t : Transport) : (State.setTr t s).response = s.response := rfl
@[simp] theorem State.setTr_tr (t : Transport) : (State.setTr t s).tr = t := rfl
@[simp] theorem State.setTr_caller_commands (t : Transport) : (State.setTr t s).caller.commands = s.caller.commands := rfl
@[simp] theorem State.setTr_caller_received (t : Transport) : (State.setTr t s).caller.received = s.caller.received := rfl

@[simp] theorem State.setCommands_req (cs : List Command) : (State.setCommands cs s).req = s.req := rfl
@[simp] theorem State.setCommands_eng_phase (cs : List Command) : (State.setCommands cs s).eng.phase = s.eng.phase := rfl
@[simp] theorem State.setCommands_eng_ackOff (cs : List Command) : (State.setCommands cs s).eng.ackOff = s.eng.ackOff := rfl
@[simp] theorem State.setCommands_eng_ack (cs : List Command) : (State.setCommands cs s).eng.ack = s.eng.ack := rfl
@[simp] theorem State.setCommands_eng_data (cs : List Command) : (State.setCommands cs s).eng.data = s.eng.data := rfl
@[simp] theorem State.setCommands_eng_par (cs : List Command) : (State.setCommands cs s).eng.par = s.eng.par := rfl
@[simp] theorem State.setCommands_eng_err (cs : List Command) : (State.setCommands cs s).eng.err = s.eng.err := rfl
@[simp] theorem State.setCommands_response (cs : List Command) : (State.setCommands cs s).response = s.response := rfl
@[simp] theorem State.setCommands_tr (cs : List Command) : (State.setCommands cs s).tr = s.tr := rfl
@[simp] theorem State.setCommands_caller_commands (cs : List Command) : (State.setCommands cs s).caller.commands = cs := rfl
@[simp] theorem State.setCommands_caller_received (cs : List Command) : (State.setCommands cs s).caller.received = s.caller.received := rfl

@[simp] theorem State.deliver_req (d : Delivery) : (State.deliver d s).req = s.req := rfl
@[simp] theorem State.deliver_eng_phase (d : Delivery) : (State.deliver d s).eng.phase = s.eng.phase := rfl
@[simp] theorem State.deliver_eng_ackOff (d : Delivery) : (State.deliver d s).eng.ackOff = s.eng.ackOff := rfl
@[simp] theorem State.deliver_eng_ack (d : Delivery) : (State.deliver d s).eng.ack = s.eng.ack := rfl
@[simp] theorem State.deliver_eng_data (d : Delivery) : (State.deliver d s).eng.data = s.eng.data := rfl
@[simp] theorem State.deliver_eng_par (d : Delivery) : (State.deliver d s).eng.par = s.eng.par := rfl
@[simp] theorem State.deliver_eng_err (d : Delivery) : (State.deliver d s).eng.err = s.eng.err := rfl
@[simp] theorem State.deliver_response (d : Delivery) : (State.deliver d s).response = s.response := rfl
@[simp] theorem State.deliver_tr (d : Delivery) : (State.deliver d s).tr = s.tr := rfl
@[simp] theorem State.deliver_caller_commands (d : Delivery) : (State.deliver d s).caller.commands = s.caller.commands := rfl
@[simp] theorem State.deliver_caller_received (d : Delivery) : (State.deliver d s).caller.received = s.caller.received ++ [d] := rfl

@[simp] theorem State.begin_req : (State.begin s).req = s.req := rfl
@[simp] theorem State.begin_eng_phase : (State.begin s).eng.phase = .qHdr := rfl
@[simp] theorem State.begin_eng_ackOff : (State.begin s).eng.ackOff = none := rfl
@[simp] theorem State.begin_eng_ack : (State.begin s).eng.ack = none := rfl
@[simp] theorem State.begin_eng_data : (State.begin s).eng.data = none := rfl
@[simp] theorem State.begin_eng_par : (State.begin s).eng.par = none := rfl
@[simp] theorem State.begin_eng_err : (State.begin s).eng.err = none := rfl
@[simp] theorem State.begin_response : (State.begin s).response = none := rfl
@[simp] theorem State.begin_tr : (State.begin s).tr = s.tr.settled := rfl
@[simp] theorem State.begin_caller_commands : (State.begin s).caller.commands = s.caller.commands := rfl
@[simp] theorem State.begin_caller_received : (State.begin s).caller.received = s.caller.received := rfl

@[simp] theorem State.failTransaction_req (e : TransportFailure) : (State.failTransaction e s).req = s.req := rfl
@[simp] theorem State.failTransaction_eng_phase (e : TransportFailure) : (State.failTransaction e s).eng.phase = .failed := rfl
@[simp] theorem State.failTransaction_eng_ackOff (e : TransportFailure) : (State.failTransaction e s).eng.ackOff = s.eng.ackOff := rfl
@[simp] theorem State.failTransaction_eng_ack (e : TransportFailure) : (State.failTransaction e s).eng.ack = s.eng.ack := rfl
@[simp] theorem State.failTransaction_eng_data (e : TransportFailure) : (State.failTransaction e s).eng.data = s.eng.data := rfl
@[simp] theorem State.failTransaction_eng_par (e : TransportFailure) : (State.failTransaction e s).eng.par = s.eng.par := rfl
@[simp] theorem State.failTransaction_eng_err (e : TransportFailure) : (State.failTransaction e s).eng.err = some e := rfl
@[simp] theorem State.failTransaction_response (e : TransportFailure) : (State.failTransaction e s).response = none := rfl
@[simp] theorem State.failTransaction_tr (e : TransportFailure) : (State.failTransaction e s).tr = s.tr := rfl
@[simp] theorem State.failTransaction_caller_commands (e : TransportFailure) : (State.failTransaction e s).caller.commands = s.caller.commands := rfl
@[simp] theorem State.failTransaction_caller_received (e : TransportFailure) : (State.failTransaction e s).caller.received = s.caller.received := rfl

@[simp] theorem State.present_req (r : Response) : (State.present r s).req = s.req := rfl
@[simp] theorem State.present_eng_phase (r : Response) : (State.present r s).eng.phase = .done := rfl
@[simp] theorem State.present_eng_ackOff (r : Response) : (State.present r s).eng.ackOff = s.eng.ackOff := rfl
@[simp] theorem State.present_eng_ack (r : Response) : (State.present r s).eng.ack = s.eng.ack := rfl
@[simp] theorem State.present_eng_data (r : Response) : (State.present r s).eng.data = s.eng.data := rfl
@[simp] theorem State.present_eng_par (r : Response) : (State.present r s).eng.par = s.eng.par := rfl
@[simp] theorem State.present_eng_err (r : Response) : (State.present r s).eng.err = s.eng.err := rfl
@[simp] theorem State.present_response (r : Response) : (State.present r s).response = some r := rfl
@[simp] theorem State.present_tr (r : Response) : (State.present r s).tr = s.tr := rfl
@[simp] theorem State.present_caller_commands (r : Response) : (State.present r s).caller.commands = s.caller.commands := rfl
@[simp] theorem State.present_caller_received (r : Response) : (State.present r s).caller.received = s.caller.received := rfl

@[simp] theorem State.finish_req (d : Delivery) : (State.finish d s).req = s.req := rfl
@[simp] theorem State.finish_eng_phase (d : Delivery) : (State.finish d s).eng.phase = .idle := rfl
@[simp] theorem State.finish_eng_ackOff (d : Delivery) : (State.finish d s).eng.ackOff = none := rfl
@[simp] theorem State.finish_eng_ack (d : Delivery) : (State.finish d s).eng.ack = none := rfl
@[simp] theorem State.finish_eng_data (d : Delivery) : (State.finish d s).eng.data = none := rfl
@[simp] theorem State.finish_eng_par (d : Delivery) : (State.finish d s).eng.par = none := rfl
@[simp] theorem State.finish_eng_err (d : Delivery) : (State.finish d s).eng.err = none := rfl
@[simp] theorem State.finish_response (d : Delivery) : (State.finish d s).response = none := rfl
@[simp] theorem State.finish_tr (d : Delivery) : (State.finish d s).tr = s.tr := rfl
@[simp] theorem State.finish_caller_commands (d : Delivery) : (State.finish d s).caller.commands = s.caller.commands := rfl
@[simp] theorem State.finish_caller_received (d : Delivery) : (State.finish d s).caller.received = s.caller.received ++ [d] := rfl

@[simp] theorem State.resetBlock_req : (State.resetBlock s).req = none := rfl
@[simp] theorem State.resetBlock_eng_phase : (State.resetBlock s).eng.phase = .idle := rfl
@[simp] theorem State.resetBlock_eng_ackOff : (State.resetBlock s).eng.ackOff = none := rfl
@[simp] theorem State.resetBlock_eng_ack : (State.resetBlock s).eng.ack = none := rfl
@[simp] theorem State.resetBlock_eng_data : (State.resetBlock s).eng.data = none := rfl
@[simp] theorem State.resetBlock_eng_par : (State.resetBlock s).eng.par = none := rfl
@[simp] theorem State.resetBlock_eng_err : (State.resetBlock s).eng.err = none := rfl
@[simp] theorem State.resetBlock_response : (State.resetBlock s).response = none := rfl
@[simp] theorem State.resetBlock_tr : (State.resetBlock s).tr = s.tr.settled := rfl
@[simp] theorem State.resetBlock_caller_commands : (State.resetBlock s).caller.commands = s.caller.commands := rfl
@[simp] theorem State.resetBlock_caller_received : (State.resetBlock s).caller.received = s.caller.received := rfl

/-! Whole parts an update leaves alone. -/

@[simp] theorem State.setTr_eng (t : Transport) : (State.setTr t s).eng = s.eng := rfl
@[simp] theorem State.setCommands_eng (cs : List Command) : (State.setCommands cs s).eng = s.eng := rfl
@[simp] theorem State.deliver_eng (d : Delivery) : (State.deliver d s).eng = s.eng := rfl
@[simp] theorem State.setPhase_caller (p : Phase) : (State.setPhase p s).caller = s.caller := rfl
@[simp] theorem State.setAckOff_caller (off : Nat) : (State.setAckOff off s).caller = s.caller := rfl
@[simp] theorem State.setAck_caller (a : AckBits) : (State.setAck a s).caller = s.caller := rfl
@[simp] theorem State.setData_caller (d : Word) : (State.setData d s).caller = s.caller := rfl
@[simp] theorem State.setPar_caller (p : Bool) : (State.setPar p s).caller = s.caller := rfl
@[simp] theorem State.setTr_caller (t : Transport) : (State.setTr t s).caller = s.caller := rfl
@[simp] theorem State.begin_caller : (State.begin s).caller = s.caller := rfl
@[simp] theorem State.failTransaction_caller (e : TransportFailure) : (State.failTransaction e s).caller = s.caller := rfl
@[simp] theorem State.present_caller (r : Response) : (State.present r s).caller = s.caller := rfl
@[simp] theorem State.resetBlock_caller : (State.resetBlock s).caller = s.caller := rfl
@[simp] theorem State.finish_eng (d : Delivery) : (State.finish d s).eng = Engine.empty := rfl
@[simp] theorem State.resetBlock_eng : (State.resetBlock s).eng = Engine.empty := rfl

end Sys2Proof.Machine
end

