-- ==== Sys2Proof/Laws/Memory.lean ====
section
/-! SUPPORT. What the operations over the transport buffer do (20_memory.md R51 to R57, R68). -/

namespace Sys2Proof.Machine

/-! Bits and values (R53). -/

@[simp] theorem bitsOf_length (v n : Nat) : (bitsOf v n).length = n := by simp [bitsOf]

theorem bitsOf_getElem? (v n i : Nat) (h : i < n) : (bitsOf v n)[i]? = some (v.testBit i) := by
  simp [bitsOf, h]

theorem bitsOf_succ (v n : Nat) : bitsOf v (n + 1) = v.testBit 0 :: bitsOf (v / 2) n := by
  simp [bitsOf, List.range_succ_eq_map, Nat.testBit_succ]

theorem valueOf_lt (bs : List Bool) : valueOf bs < 2 ^ bs.length := by
  induction bs with
  | nil => simp [valueOf]
  | cons b bs ih => cases b <;> (simp [valueOf, Nat.pow_succ]; omega)

theorem valueOf_testBit (bs : List Bool) (i : Nat) : (valueOf bs).testBit i = bs.getD i false := by
  induction bs generalizing i with
  | nil => simp [valueOf]
  | cons b bs ih =>
    cases i with
    | zero => cases b <;> simp [valueOf, Nat.testBit_zero]
    | succ i =>
      have h : (b.toNat + 2 * valueOf bs) / 2 = valueOf bs := by cases b <;> simp <;> omega
      simp [valueOf, Nat.testBit_succ, h, ih]

theorem valueOf_bitsOf (v n : Nat) : valueOf (bitsOf v n) = v % 2 ^ n := by
  apply Nat.eq_of_testBit_eq
  intro i
  rw [valueOf_testBit, Nat.testBit_mod_two_pow, List.getD_eq_getElem?_getD]
  by_cases h : i < n
  · rw [bitsOf_getElem? v n i h]; simp [h]
  · simp [bitsOf, h]

/-! The wire and the clock (R56, R67, R68). -/

@[simp] theorem Wire.shiftIn_length (w : Wire) (driven : List Bool) (pos : Nat) :
    (w.shiftIn driven pos).1.length = driven.length := by
  induction driven generalizing w pos with
  | nil => cases w <;> simp [Wire.shiftIn]
  | cons b driven ih =>
    rcases w with ⟨_ | ⟨x, script⟩⟩ | _ <;> simp [Wire.shiftIn, ih]

theorem Wire.shiftIn_loopback (driven : List Bool) (pos : Nat) :
    Wire.shiftIn .loopback driven pos = (driven, .loopback) := by
  induction driven generalizing pos with
  | nil => simp [Wire.shiftIn]
  | cons b driven ih => simp [Wire.shiftIn, ih]

theorem Wire.shiftIn_append (w : Wire) (a b : List Bool) (pos : Nat) :
    w.shiftIn (a ++ b) pos = ((w.shiftIn a pos).1 ++ ((w.shiftIn a pos).2.shiftIn b (pos + a.length)).1,
      ((w.shiftIn a pos).2.shiftIn b (pos + a.length)).2) := by
  induction a generalizing w pos with
  | nil => cases w <;> simp [Wire.shiftIn]
  | cons x a ih =>
    rcases w with ⟨_ | ⟨y, script⟩⟩ | _ <;> simp [Wire.shiftIn, ih, Nat.add_assoc, Nat.add_comm 1]

@[simp] theorem Memory.append_out (m : Memory) (bits : List Bool) : (m.append bits).out = m.out ++ bits := rfl
@[simp] theorem Memory.append_shifted (m : Memory) (bits : List Bool) : (m.append bits).shifted = m.shifted := rfl

theorem Memory.append_append (m : Memory) (a b : List Bool) : (m.append a).append b = m.append (a ++ b) := by
  simp [Memory.append]

theorem Memory.wf_iff (m : Memory) : m.wf = true ↔ m.shifted.length ≤ m.out.length := by simp [Memory.wf]

@[simp] theorem Memory.unclocked_length (m : Memory) : m.unclocked.length = m.out.length - m.shifted.length := by
  simp [Memory.unclocked]

@[simp] theorem Transport.clock_out (k : Nat) (t : Transport) : (t.clock k).mem.out = t.mem.out := rfl
@[simp] theorem Transport.clock_answers (k : Nat) (t : Transport) : (t.clock k).answers = t.answers := rfl

theorem Transport.clock_shifted (k : Nat) (t : Transport) :
    (t.clock k).mem.shifted = t.mem.shifted ++ (t.wire.shiftIn (t.mem.unclocked.take k) t.mem.shifted.length).1 := rfl

/-- Clocking never passes the end of what is queued. -/
theorem Transport.clock_length (k : Nat) (t : Transport) :
    (t.clock k).mem.shifted.length = t.mem.shifted.length + min k (t.mem.out.length - t.mem.shifted.length) := by
  simp [Transport.clock_shifted]

theorem Transport.clock_prefix (k : Nat) (t : Transport) : t.mem.shifted <+: (t.clock k).mem.shifted := by
  rw [Transport.clock_shifted]; exact List.prefix_append ..

/-- Clocking some positions and then some more is clocking them all: no bit is shifted in twice. -/
theorem Transport.clock_clock (a b : Nat) (t : Transport) : (t.clock a).clock b = t.clock (a + b) := by
  have h : t.mem.unclocked.take (a + b) = t.mem.unclocked.take a ++ (t.clock a).mem.unclocked.take b := by
    rw [List.take_add]
    congr 2
    simp only [Memory.unclocked, Transport.clock_out, Transport.clock_length, List.drop_drop]
    rcases Nat.le_total a (t.mem.out.length - t.mem.shifted.length) with hl | hl
    · rw [Nat.min_eq_left hl]
    · rw [Nat.min_eq_right hl, List.drop_eq_nil_of_le (by omega), List.drop_eq_nil_of_le (by omega)]
  conv_rhs => rw [Transport.clock, h, Wire.shiftIn_append]
  simp [Transport.clock, List.append_assoc]

/-- Clocking more than is pending is clocking all of it. -/
theorem Transport.clock_all (k : Nat) (t : Transport) (h : t.mem.unclocked.length ≤ k) : t.clock k = t.clock t.mem.unclocked.length := by
  simp only [Transport.clock, List.take_of_length_le h, List.take_length]

@[simp] theorem Transport.sync_out (k : Nat) (t : Transport) : (t.sync k).mem.out = t.mem.out := by
  unfold Transport.sync; split <;> simp

@[simp] theorem Transport.sync_answers (k : Nat) (t : Transport) : (t.sync k).answers = t.answers := by
  unfold Transport.sync; split <;> simp

theorem Transport.sync_prefix (k : Nat) (t : Transport) : t.mem.shifted <+: (t.sync k).mem.shifted := by
  unfold Transport.sync
  split
  · exact Transport.clock_prefix ..
  · exact List.prefix_refl _

/-- After bringing the bus up to date for a queued limit, everything below the limit is clocked (R56). -/
theorem Transport.sync_clocked (limit : Nat) (t : Transport) (h : limit ≤ t.mem.out.length) :
    limit ≤ (t.sync limit).mem.shifted.length := by
  unfold Transport.sync
  split
  · rw [Transport.clock_length, Memory.unclocked_length]; omega
  · omega

/-- With everything below the limit clocked and nothing under way, a capture does not clock the bus again (R60). -/
theorem Transport.sync_of_clocked (limit : Nat) (t : Transport) (hc : t.progress.clocking = false)
    (h : limit ≤ t.mem.shifted.length) : t.sync limit = t := by
  unfold Transport.sync
  rw [if_neg (by simp [hc]; omega)]

/-! A call that is over, and one that is waiting (log 29). -/

@[simp] theorem Transport.clock_progress (k : Nat) (t : Transport) : (t.clock k).progress = t.progress := rfl
@[simp] theorem Transport.settled_mem (t : Transport) : t.settled.mem = t.mem := rfl
@[simp] theorem Transport.settled_wire (t : Transport) : t.settled.wire = t.wire := rfl
@[simp] theorem Transport.settled_answers (t : Transport) : t.settled.answers = t.answers := rfl
@[simp] theorem Transport.settled_progress (t : Transport) : t.settled.progress = Progress.none := rfl
@[simp] theorem Progress.none_queued : Progress.none.queued = 0 := rfl
@[simp] theorem Progress.none_clocking : Progress.none.clocking = false := rfl

theorem Transport.settled_of_none (t : Transport) (h : t.progress = Progress.none) : t.settled = t := by
  rw [Transport.settled, ← h]

@[simp] theorem Transport.queueSome_shifted (bits : List Bool) (q : Nat) (t : Transport) :
    (t.queueSome bits q).mem.shifted = t.mem.shifted := rfl
@[simp] theorem Transport.queueSome_wire (bits : List Bool) (q : Nat) (t : Transport) : (t.queueSome bits q).wire = t.wire := rfl
@[simp] theorem Transport.queueSome_answers (bits : List Bool) (q : Nat) (t : Transport) :
    (t.queueSome bits q).answers = t.answers := rfl
theorem Transport.queueSome_out (bits : List Bool) (q : Nat) (t : Transport) :
    (t.queueSome bits q).mem.out = t.mem.out ++ (bits.drop t.progress.queued).take q := rfl
theorem Transport.queueSome_queued (bits : List Bool) (q : Nat) (t : Transport) :
    (t.queueSome bits q).progress.queued = t.progress.queued + min q (bits.length - t.progress.queued) := by
  simp [Transport.queueSome]
@[simp] theorem Transport.queueSome_clocking (bits : List Bool) (q : Nat) (t : Transport) :
    (t.queueSome bits q).progress.clocking = t.progress.clocking := rfl

/-- A waiting `Queue` that places nothing changes nothing. -/
@[simp] theorem Transport.queueSome_zero (bits : List Bool) (t : Transport) : t.queueSome bits 0 = t := by
  simp [Transport.queueSome, Memory.append]

@[simp] theorem Transport.clockSome_out (limit c : Nat) (t : Transport) : (t.clockSome limit c).mem.out = t.mem.out := by
  unfold Transport.clockSome; split <;> simp
@[simp] theorem Transport.clockSome_answers (limit c : Nat) (t : Transport) : (t.clockSome limit c).answers = t.answers := by
  unfold Transport.clockSome; split <;> simp
@[simp] theorem Transport.clockSome_queued (limit c : Nat) (t : Transport) :
    (t.clockSome limit c).progress.queued = t.progress.queued := by
  unfold Transport.clockSome; split <;> simp

theorem Transport.clockSome_prefix (limit c : Nat) (t : Transport) : t.mem.shifted <+: (t.clockSome limit c).mem.shifted := by
  unfold Transport.clockSome
  split
  · exact Transport.clock_prefix ..
  · exact List.prefix_refl _

/-- A waiting `Capture` that clocks nothing changes nothing. -/
@[simp] theorem Transport.clockSome_zero (limit : Nat) (t : Transport) : t.clockSome limit 0 = t := by
  unfold Transport.clockSome
  split
  · simp [Transport.clock, Wire.shiftIn]
  · rfl

/-- How far a waiting `Capture` that ends before `limit` has clocked the bus. -/
theorem Transport.clockSome_clocked (limit c : Nat) (t : Transport) (hw : t.mem.wf = true) :
    (t.clockSome limit c).mem.shifted.length =
      if t.progress.clocking = true ∨ t.mem.shifted.length < limit then min (t.mem.shifted.length + c) t.mem.out.length
      else t.mem.shifted.length := by
  rw [Memory.wf_iff] at hw
  unfold Transport.clockSome
  split
  · simp only [Transport.clock_length]; omega
  · rfl

/-- A `Capture` that has waited leaves the bus as one that has not. -/
theorem Transport.sync_clockSome (limit c : Nat) (t : Transport) :
    ((t.clockSome limit c).sync limit).settled = (t.sync limit).settled := by
  by_cases h : t.progress.clocking = true ∨ t.mem.shifted.length < limit
  · by_cases hc : c = 0
    · rw [hc, Transport.clockSome_zero]
    · have hall : t.mem.unclocked.length ≤ c + (t.clock c).mem.unclocked.length := by simp [Transport.clock_length]; omega
      rw [Transport.clockSome, if_pos h, Transport.sync, if_pos (by simp [hc]), Transport.sync, if_pos h,
        ← Transport.clock_all _ t hall, ← Transport.clock_clock]
      rfl
  · rw [Transport.clockSome, if_neg h]

/-! Every memory operation keeps the buffer's form (R51). -/

theorem Memory.append_wf (m : Memory) (bits : List Bool) (h : m.wf = true) : (m.append bits).wf = true := by
  simp [Memory.wf_iff] at *; omega

theorem Transport.clock_wf (k : Nat) (t : Transport) (h : t.mem.wf = true) : (t.clock k).mem.wf = true := by
  rw [Memory.wf_iff] at *
  rw [Transport.clock_length, Transport.clock_out]; omega

theorem Transport.sync_wf (k : Nat) (t : Transport) (h : t.mem.wf = true) : (t.sync k).mem.wf = true := by
  unfold Transport.sync
  split
  · exact Transport.clock_wf _ _ h
  · exact h

theorem Transport.clockSome_wf (limit c : Nat) (t : Transport) (h : t.mem.wf = true) : (t.clockSome limit c).mem.wf = true := by
  unfold Transport.clockSome
  split
  · exact Transport.clock_wf _ _ h
  · exact h

/-! The two calls, by the environment's answer. -/

/-- The transport with the answer to one call taken. -/
def Transport.answered (t : Transport) : Transport := { t with answers := t.answers.tail }

/-- The environment's answer to the next call: without one, the call has not returned and nothing more has come of it. -/
def Transport.nextAnswer (t : Transport) : Answer := t.answers.head?.getD (.pending 0 0)

@[simp] theorem Transport.answered_mem (t : Transport) : t.answered.mem = t.mem := rfl
@[simp] theorem Transport.answered_wire (t : Transport) : t.answered.wire = t.wire := rfl
@[simp] theorem Transport.answered_answers (t : Transport) : t.answered.answers = t.answers.tail := rfl
@[simp] theorem Transport.answered_progress (t : Transport) : t.answered.progress = t.progress := rfl

theorem Transport.poll_eq (t : Transport) : t.poll = (t.nextAnswer, t.answered) := by
  rcases t with ⟨m, w, _ | ⟨a, as⟩, p⟩ <;> rfl

theorem queueCall_returns (v n : Nat) (t : Transport) (rest : List Answer) (h : t.answers = .returns :: rest) :
    queueCall v n t = .returned (t.mem.out.length - t.progress.queued)
      (Transport.settled { t with mem := t.mem.append ((bitsOf v n).drop t.progress.queued), answers := rest }) := by
  simp [queueCall, Transport.poll, h]

/-- A `Queue` that returns at once (R52). -/
theorem queueCall_returns_fresh (v n : Nat) (t : Transport) (rest : List Answer) (h : t.answers = .returns :: rest)
    (hp : t.progress = Progress.none) :
    queueCall v n t = .returned t.mem.out.length { t with mem := t.mem.append (bitsOf v n), answers := rest } := by
  rw [queueCall_returns v n t rest h, Transport.settled_of_none _ (by simpa using hp)]
  simp [hp]

theorem queueCall_fails (v n : Nat) (t : Transport) (e : TransportFailure) (g : List Bool) (c : Nat) (rest : List Answer)
    (h : t.answers = .fails e g c :: rest) :
    queueCall v n t = .failed e
      (Transport.settled { t with mem := t.mem.append (g.take (n - t.progress.queued)), answers := rest }) := by
  simp [queueCall, Transport.poll, h]

theorem queueCall_pending (v n q c : Nat) (t : Transport) (h : t.nextAnswer = .pending q c) :
    queueCall v n t = .waiting (t.answered.queueSome (bitsOf v n) q) := by
  simp [queueCall, Transport.poll_eq, h]

theorem captureCall_returns (off n : Nat) (t : Transport) (rest : List Answer) (h : t.answers = .returns :: rest)
    (hq : off + n ≤ t.mem.out.length) :
    captureCall off n t = .returned ((Transport.sync (off + n) { t with answers := rest }).mem.valueAt off n)
      (Transport.sync (off + n) { t with answers := rest }).settled := by
  simp [captureCall, Transport.poll, h, Nat.not_lt.mpr hq]

theorem captureCall_unqueued (off n : Nat) (t : Transport) (rest : List Answer) (h : t.answers = .returns :: rest)
    (hq : t.mem.out.length < off + n) :
    captureCall off n t = .failed (Config.unqueuedCapture off n)
      (Transport.clock (Config.unqueuedClocked off n t.mem.clocked) { t with answers := rest }).settled := by
  simp [captureCall, Transport.poll, h, hq]

theorem captureCall_fails (off n : Nat) (t : Transport) (e : TransportFailure) (g : List Bool) (c : Nat) (rest : List Answer)
    (h : t.answers = .fails e g c :: rest) :
    captureCall off n t = .failed e (Transport.clock c { t with answers := rest }).settled := by
  simp [captureCall, Transport.poll, h]

theorem captureCall_pending (off n q c : Nat) (t : Transport) (h : t.nextAnswer = .pending q c) :
    captureCall off n t = .waiting (t.answered.clockSome (off + n) c) := by
  simp [captureCall, Transport.poll_eq, h]

/-- Everything a `Queue` can come to. -/
theorem queueCall_cases (v n : Nat) (t : Transport) :
    (∃ rest, t.answers = .returns :: rest ∧
      queueCall v n t = .returned (t.mem.out.length - t.progress.queued)
        (Transport.settled { t with mem := t.mem.append ((bitsOf v n).drop t.progress.queued), answers := rest })) ∨
    (∃ e g c rest, t.answers = .fails e g c :: rest ∧
      queueCall v n t = .failed e
        (Transport.settled { t with mem := t.mem.append (g.take (n - t.progress.queued)), answers := rest })) ∨
    (∃ q c, t.nextAnswer = .pending q c ∧ queueCall v n t = .waiting (t.answered.queueSome (bitsOf v n) q)) := by
  rcases h : t.answers with _ | ⟨a, rest⟩
  · have hn : t.nextAnswer = .pending 0 0 := by simp [Transport.nextAnswer, h]
    exact .inr (.inr ⟨_, _, hn, queueCall_pending v n _ _ t hn⟩)
  · cases a with
    | returns => exact .inl ⟨rest, rfl, queueCall_returns v n t rest h⟩
    | fails e g c => exact .inr (.inl ⟨e, g, c, rest, rfl, queueCall_fails v n t e g c rest h⟩)
    | pending q c =>
      have hn : t.nextAnswer = .pending q c := by simp [Transport.nextAnswer, h]
      exact .inr (.inr ⟨q, c, hn, queueCall_pending v n q c t hn⟩)

/-- Everything a `Capture` can come to. -/
theorem captureCall_cases (off n : Nat) (t : Transport) :
    (∃ rest, t.answers = .returns :: rest ∧ off + n ≤ t.mem.out.length ∧
      captureCall off n t = .returned ((Transport.sync (off + n) { t with answers := rest }).mem.valueAt off n)
        (Transport.sync (off + n) { t with answers := rest }).settled) ∨
    (∃ rest, t.answers = .returns :: rest ∧ t.mem.out.length < off + n ∧
      captureCall off n t = .failed (Config.unqueuedCapture off n)
        (Transport.clock (Config.unqueuedClocked off n t.mem.clocked) { t with answers := rest }).settled) ∨
    (∃ e g c rest, t.answers = .fails e g c :: rest ∧
      captureCall off n t = .failed e (Transport.clock c { t with answers := rest }).settled) ∨
    (∃ q c, t.nextAnswer = .pending q c ∧ captureCall off n t = .waiting (t.answered.clockSome (off + n) c)) := by
  rcases h : t.answers with _ | ⟨a, rest⟩
  · have hn : t.nextAnswer = .pending 0 0 := by simp [Transport.nextAnswer, h]
    exact .inr (.inr (.inr ⟨_, _, hn, captureCall_pending off n _ _ t hn⟩))
  · cases a with
    | returns =>
      by_cases hq : off + n ≤ t.mem.out.length
      · exact .inl ⟨rest, rfl, hq, captureCall_returns off n t rest h hq⟩
      · exact .inr (.inl ⟨rest, rfl, by omega, captureCall_unqueued off n t rest h (by omega)⟩)
    | fails e g c => exact .inr (.inr (.inl ⟨e, g, c, rest, rfl, captureCall_fails off n t e g c rest h⟩))
    | pending q c =>
      have hn : t.nextAnswer = .pending q c := by simp [Transport.nextAnswer, h]
      exact .inr (.inr (.inr ⟨q, c, hn, captureCall_pending off n q c t hn⟩))

end Sys2Proof.Machine
end

