-- ==== Sys2Proof/Laws/Engine.lean ====
section
/-! SUPPORT. What one phase of the engine can do, and how its phases run one after another (41_transaction_engine.md R143 to R158). -/

namespace Sys2Proof.Machine

/-! The transport only grows (20_memory.md R52, R55, R65). -/

/-- What every transport call does to the transport: the buffer only grows, its form is kept, answers are only taken. -/
structure Transport.Grew (t t' : Transport) : Prop where
  out : t.mem.out <+: t'.mem.out
  shifted : t.mem.shifted <+: t'.mem.shifted
  wf : t.mem.wf = true → t'.mem.wf = true
  answers : t'.answers <:+ t.answers

theorem Transport.Grew.refl (t : Transport) : t.Grew t :=
  ⟨List.prefix_refl _, List.prefix_refl _, id, List.suffix_refl _⟩

theorem Transport.Grew.trans {a b c : Transport} (h : a.Grew b) (h' : b.Grew c) : a.Grew c :=
  ⟨h.out.trans h'.out, h.shifted.trans h'.shifted, fun w => h'.wf (h.wf w), h'.answers.trans h.answers⟩

/-- The transport after a call. -/
def CallResult.after : CallResult → Transport
  | .returned _ t => t
  | .failed _ t => t
  | .waiting t => t

theorem Transport.answered_grew (t : Transport) : t.Grew t.answered :=
  ⟨List.prefix_refl _, List.prefix_refl _, id, List.tail_suffix _⟩

theorem queueCall_grew (v n : Nat) (t : Transport) : t.Grew (queueCall v n t).after := by
  rcases queueCall_cases v n t with ⟨rest, ha, h⟩ | ⟨e, g, c, rest, ha, h⟩ | ⟨q, c, -, h⟩ <;> rw [h]
  · exact ⟨List.prefix_append .., List.prefix_refl _, Memory.append_wf _ _, by simp [CallResult.after, ha]⟩
  · exact ⟨List.prefix_append .., List.prefix_refl _, Memory.append_wf _ _, by simp [CallResult.after, ha]⟩
  · exact ⟨List.prefix_append .., List.prefix_refl _, Memory.append_wf _ _, List.tail_suffix _⟩

theorem captureCall_grew (off n : Nat) (t : Transport) : t.Grew (captureCall off n t).after := by
  rcases captureCall_cases off n t with ⟨rest, ha, -, h⟩ | ⟨rest, ha, -, h⟩ | ⟨e, g, c, rest, ha, h⟩ | ⟨q, c, -, h⟩ <;> rw [h]
  · exact ⟨by simp [CallResult.after], Transport.sync_prefix _ { t with answers := rest }, Transport.sync_wf _ { t with answers := rest },
      by simp [CallResult.after, ha]⟩
  · exact ⟨by simp [CallResult.after], Transport.clock_prefix _ { t with answers := rest }, Transport.clock_wf _ { t with answers := rest },
      by simp [CallResult.after, ha]⟩
  · exact ⟨by simp [CallResult.after], Transport.clock_prefix _ { t with answers := rest }, Transport.clock_wf _ { t with answers := rest },
      by simp [CallResult.after, ha]⟩
  · exact ⟨by simp [CallResult.after], Transport.clockSome_prefix _ _ t.answered, Transport.clockSome_wf _ _ t.answered,
      by simpa [CallResult.after] using List.tail_suffix _⟩

/-- A `Queue`, however it ends, gains at most its width and touches neither the bits shifted in nor the wire (R52, U5). -/
theorem queueCall_frame (v n : Nat) (t : Transport) :
    (queueCall v n t).after.mem.out.length ≤ t.mem.out.length + n ∧ (queueCall v n t).after.mem.shifted = t.mem.shifted ∧
      (queueCall v n t).after.wire = t.wire := by
  rcases queueCall_cases v n t with ⟨rest, -, h⟩ | ⟨e, g, c, rest, -, h⟩ | ⟨q, c, -, h⟩ <;> rw [h] <;>
    simp [CallResult.after, Transport.queueSome_out]

/-- A `Capture`, however it ends, leaves `TR.out` as it was (R55). -/
theorem captureCall_frame (off n : Nat) (t : Transport) : (captureCall off n t).after.mem.out = t.mem.out := by
  rcases captureCall_cases off n t with ⟨rest, -, -, h⟩ | ⟨rest, -, -, h⟩ | ⟨e, g, c, rest, -, h⟩ | ⟨q, c, -, h⟩ <;> rw [h] <;>
    simp [CallResult.after]

/-! A phase with a transport call (R144, R206, R246). -/

@[simp] theorem State.afterCall_returned (s : State) (v : Nat) (t : Transport) (go : Nat → State → State) :
    s.afterCall (.returned v t) go = go v (s.setTr t) := rfl
@[simp] theorem State.afterCall_failed (s : State) (e : TransportFailure) (t : Transport) (go : Nat → State → State) :
    s.afterCall (.failed e t) go = (s.setTr t).failTransaction e := rfl
@[simp] theorem State.afterCall_waiting (s : State) (t : Transport) (go : Nat → State → State) :
    s.afterCall (.waiting t) go = s.setTr t := rfl

theorem tick_qHdr (s : State) (r : Request) (hp : s.eng.phase = .qHdr) (hr : s.req = some r) :
    tick s = .next (s.afterCall (queueCall r.header.toNat 8 s.tr) fun _ s => s.setPhase .qAck) := by
  simp [tick, hp, phaseQHdr, hr, Config.headerWidth]

theorem tick_qAck (s : State) (hp : s.eng.phase = .qAck) :
    tick s = .next (s.afterCall (queueCall 0 3 s.tr) fun off s => (s.setAckOff off).setPhase .qData) := by
  simp [tick, hp, phaseQAck, Config.reservedFill, Config.ackWidth]

theorem tick_qData (s : State) (r : Request) (d p : Nat) (hp : s.eng.phase = .qData) (hr : s.req = some r)
    (hv : dataPhaseValues r = some (d, p)) :
    tick s = .next (s.afterCall (queueCall d 32 s.tr) fun _ s => s.setPhase .qPar) := by
  simp [tick, hp, phaseQData, hr, hv, Config.dataWidth]

theorem tick_qPar (s : State) (r : Request) (d p : Nat) (hp : s.eng.phase = .qPar) (hr : s.req = some r)
    (hv : dataPhaseValues r = some (d, p)) :
    tick s = .next (s.afterCall (queueCall p 1 s.tr) fun _ s => s.setPhase .cAck) := by
  simp [tick, hp, phaseQPar, hr, hv, Config.parWidth]

theorem tick_cAck (s : State) (r : Request) (off : Nat) (hp : s.eng.phase = .cAck) (hr : s.req = some r)
    (ho : s.eng.ackOff = some off) :
    tick s = .next (s.afterCall (captureCall off 3 s.tr) fun v s => (s.setAck (ackOfValue v)).setPhase (afterAck r.dir)) := by
  simp [tick, hp, phaseCAck, hr, ho, Config.ackWidth]

theorem tick_cData (s : State) (off : Nat) (hp : s.eng.phase = .cData) (ho : s.eng.ackOff = some off) :
    tick s = .next (s.afterCall (captureCall (off + 3) 32 s.tr) fun v s => (s.setData (dataOfValue v)).setPhase .cPar) := by
  simp [tick, hp, phaseCData, ho, dataOffset, Config.ackWidth, Config.dataWidth]

theorem tick_cPar (s : State) (off : Nat) (hp : s.eng.phase = .cPar) (ho : s.eng.ackOff = some off) :
    tick s = .next (s.afterCall (captureCall (off + 3 + 32) 1 s.tr) fun v s => (s.setPar (parOfValue v)).setPhase .classify) := by
  simp [tick, hp, phaseCPar, ho, parOffset, Config.ackWidth, Config.dataWidth, Config.parWidth]

theorem tick_classify_write (s : State) (r : Request) (a : AckBits) (hp : s.eng.phase = .classify) (hr : s.req = some r)
    (hd : r.dir = .write) (ha : s.eng.ack = some a) : tick s = .next (s.present (classifyWrite a)) := by
  simp [tick, hp, phaseClassify, ha, classifyUnder, hr, hd]

theorem tick_classify_read (s : State) (r : Request) (a : AckBits) (d : Word) (p : Bool) (hp : s.eng.phase = .classify)
    (hr : s.req = some r) (hd : r.dir = .read) (ha : s.eng.ack = some a) (hdata : s.eng.data = some d) (hpar : s.eng.par = some p) :
    tick s = .next (s.present (classifyRead a d p)) := by
  simp [tick, hp, phaseClassify, ha, classifyUnder, hr, hd, hdata, hpar]

/-- The engine waits in IDLE, DONE and FAILED. -/
theorem tick_waits (s : State) (hp : s.eng.phase = .idle ∨ s.eng.phase = .done ∨ s.eng.phase = .failed) : tick s = .next s := by
  rcases hp with h | h | h <;> simp [tick, h]

/-! Running the phases. -/

theorem runEngine_waits (k : Nat) (s : State) (hp : s.eng.phase = .idle ∨ s.eng.phase = .done ∨ s.eng.phase = .failed) :
    runEngine k s = .next s := by
  cases k <;> simp [runEngine, tick_waits s hp]

/-- How the run goes on after a phase's call: with the value, into FAILED, or not at all (R142, R144, R206, R246). -/
def State.goOn (s : State) (k : Nat) (go : Nat → State → State) : CallResult → Result
  | .returned v t => runEngine k (go v (s.setTr t))
  | .failed e t => .next ((s.setTr t).failTransaction e)
  | .waiting t => .next (s.setTr t)

@[simp] theorem State.goOn_returned (s : State) (k v : Nat) (t : Transport) (go : Nat → State → State) :
    s.goOn k go (.returned v t) = runEngine k (go v (s.setTr t)) := rfl
@[simp] theorem State.goOn_failed (s : State) (k : Nat) (e : TransportFailure) (t : Transport) (go : Nat → State → State) :
    s.goOn k go (.failed e t) = .next ((s.setTr t).failTransaction e) := rfl
@[simp] theorem State.goOn_waiting (s : State) (k : Nat) (t : Transport) (go : Nat → State → State) :
    s.goOn k go (.waiting t) = .next (s.setTr t) := rfl

/-- A phase with a call that moves on when the call returns. -/
theorem runEngine_call (k : Nat) (s : State) (c : CallResult) (go : Nat → State → State)
    (ht : tick s = .next (s.afterCall c go)) (hf : s.eng.phase ≠ .failed)
    (hgo : ∀ v t, (go v (s.setTr t)).eng.phase ≠ s.eng.phase) : runEngine (k + 1) s = s.goOn k go c := by
  cases c with
  | returned v t => simp [runEngine, ht, hgo v t]
  | failed e t =>
    simp only [runEngine, ht, State.afterCall_failed]
    rw [if_neg (by simpa using Ne.symm hf), runEngine_waits _ _ (.inr (.inr rfl))]
    rfl
  | waiting t => simp [runEngine, ht]

/-- A phase that moves on without a call. -/
theorem runEngine_move (k : Nat) (s s' : State) (ht : tick s = .next s') (hp : s'.eng.phase ≠ s.eng.phase) :
    runEngine (k + 1) s = runEngine k s' := by
  simp [runEngine, ht, hp]

end Sys2Proof.Machine
end

