-- ==== Sys2Proof/Laws/Exec.lean ====
section
/-! SUPPORT. Each arm of `exec` over its shared operation, and the Request each request instruction sends. -/

namespace Sys2Proof.Machine

variable (s : State)

theorem exec_rdDp0 : exec .rdDp0 s = access 0 false .read none s := rfl
theorem exec_rdDp1 : exec .rdDp1 s = access 1 false .read none s := rfl
theorem exec_rdDp2 : exec .rdDp2 s = access 2 false .read none s := rfl
theorem exec_rdDp3 : exec .rdDp3 s = access 3 false .read none s := rfl
theorem exec_rdDp (n : Nat) (p : Option Word) : exec (.rdDp n p) s = access n false .read p s := rfl
theorem exec_rdAp0 : exec .rdAp0 s = access 0 true .read none s := rfl
theorem exec_rdAp1 : exec .rdAp1 s = access 1 true .read none s := rfl
theorem exec_rdAp2 : exec .rdAp2 s = access 2 true .read none s := rfl
theorem exec_rdAp3 : exec .rdAp3 s = access 3 true .read none s := rfl
theorem exec_rdAp (n : Nat) (p : Option Word) : exec (.rdAp n p) s = access n true .read p s := rfl
theorem exec_wrDp0 (w : Word) : exec (.wrDp0 w) s = access 0 false .write (some w) s := rfl
theorem exec_wrDp1 (w : Word) : exec (.wrDp1 w) s = access 1 false .write (some w) s := rfl
theorem exec_wrDp2 (w : Word) : exec (.wrDp2 w) s = access 2 false .write (some w) s := rfl
theorem exec_wrDp3 (w : Word) : exec (.wrDp3 w) s = access 3 false .write (some w) s := rfl
theorem exec_wrDp (n : Nat) (p : Option Word) : exec (.wrDp n p) s = access n false .write p s := rfl
theorem exec_wrAp0 (w : Word) : exec (.wrAp0 w) s = access 0 true .write (some w) s := rfl
theorem exec_wrAp1 (w : Word) : exec (.wrAp1 w) s = access 1 true .write (some w) s := rfl
theorem exec_wrAp2 (w : Word) : exec (.wrAp2 w) s = access 2 true .write (some w) s := rfl
theorem exec_wrAp3 (w : Word) : exec (.wrAp3 w) s = access 3 true .write (some w) s := rfl
theorem exec_wrAp (n : Nat) (p : Option Word) : exec (.wrAp n p) s = access n true .write p s := rfl
theorem exec_ackInvalid0 : exec .ackInvalid0 s = ackRow 0#3 s := rfl
theorem exec_ackAck : exec .ackAck s = ackRow 1#3 s := rfl
theorem exec_ackWait : exec .ackWait s = ackRow 2#3 s := rfl
theorem exec_ackInvalid3 : exec .ackInvalid3 s = ackRow 3#3 s := rfl
theorem exec_ackFault : exec .ackFault s = ackRow 4#3 s := rfl
theorem exec_ackInvalid5 : exec .ackInvalid5 s = ackRow 5#3 s := rfl
theorem exec_ackInvalid6 : exec .ackInvalid6 s = ackRow 6#3 s := rfl
theorem exec_ackInvalid7 : exec .ackInvalid7 s = ackRow 7#3 s := rfl

/-- Every arm is a register access, or CLASSIFY under its ack pattern. -/
theorem exec_cases (i : Instr) :
    (∃ n ap dir p, exec i s = access n ap dir p s) ∨ (∃ a, i.ackPattern = some a ∧ exec i s = ackRow a s) := by
  cases i
  case rdDp0 => exact .inl ⟨_, _, _, _, exec_rdDp0 s⟩
  case rdDp1 => exact .inl ⟨_, _, _, _, exec_rdDp1 s⟩
  case rdDp2 => exact .inl ⟨_, _, _, _, exec_rdDp2 s⟩
  case rdDp3 => exact .inl ⟨_, _, _, _, exec_rdDp3 s⟩
  case rdDp n p => exact .inl ⟨_, _, _, _, exec_rdDp s n p⟩
  case rdAp0 => exact .inl ⟨_, _, _, _, exec_rdAp0 s⟩
  case rdAp1 => exact .inl ⟨_, _, _, _, exec_rdAp1 s⟩
  case rdAp2 => exact .inl ⟨_, _, _, _, exec_rdAp2 s⟩
  case rdAp3 => exact .inl ⟨_, _, _, _, exec_rdAp3 s⟩
  case rdAp n p => exact .inl ⟨_, _, _, _, exec_rdAp s n p⟩
  case wrDp0 w => exact .inl ⟨_, _, _, _, exec_wrDp0 s w⟩
  case wrDp1 w => exact .inl ⟨_, _, _, _, exec_wrDp1 s w⟩
  case wrDp2 w => exact .inl ⟨_, _, _, _, exec_wrDp2 s w⟩
  case wrDp3 w => exact .inl ⟨_, _, _, _, exec_wrDp3 s w⟩
  case wrDp n p => exact .inl ⟨_, _, _, _, exec_wrDp s n p⟩
  case wrAp0 w => exact .inl ⟨_, _, _, _, exec_wrAp0 s w⟩
  case wrAp1 w => exact .inl ⟨_, _, _, _, exec_wrAp1 s w⟩
  case wrAp2 w => exact .inl ⟨_, _, _, _, exec_wrAp2 s w⟩
  case wrAp3 w => exact .inl ⟨_, _, _, _, exec_wrAp3 s w⟩
  case wrAp n p => exact .inl ⟨_, _, _, _, exec_wrAp s n p⟩
  case ackInvalid0 => exact .inr ⟨_, rfl, exec_ackInvalid0 s⟩
  case ackAck => exact .inr ⟨_, rfl, exec_ackAck s⟩
  case ackWait => exact .inr ⟨_, rfl, exec_ackWait s⟩
  case ackInvalid3 => exact .inr ⟨_, rfl, exec_ackInvalid3 s⟩
  case ackFault => exact .inr ⟨_, rfl, exec_ackFault s⟩
  case ackInvalid5 => exact .inr ⟨_, rfl, exec_ackInvalid5 s⟩
  case ackInvalid6 => exact .inr ⟨_, rfl, exec_ackInvalid6 s⟩
  case ackInvalid7 => exact .inr ⟨_, rfl, exec_ackInvalid7 s⟩

/-- An access whose Request is built sends it from IDLE (R145, R211). -/
theorem access_of_built (n : Nat) (ap : Bool) (dir : Direction) (p : Option Word) (r : Request)
    (h : buildRequest n ap dir p = some r) :
    access n ap dir p s = if s.eng.phase = .idle then sendBuilt { s with req := some r } else .refused .transactionInProgress := by
  simp only [access, h]

theorem buildRequest_read (n : Nat) (ap : Bool) (p : Option Word) :
    buildRequest n ap .read p = some (tableRead (maskIndex n) ap) := by
  simp [buildRequest, tableRead, headerOf_eq_table]

theorem buildRequest_write (n : Nat) (ap : Bool) (w : Word) :
    buildRequest n ap .write (some w) = some (tableWrite (maskIndex n) ap w) := by
  simp [buildRequest, tableWrite, headerOf_eq_table]

/-- A request instruction from IDLE is the `send` of the Request it stands for. -/
theorem exec_of_requestOf (i : Instr) (r : Request) (h : requestOf i = some r) (hp : s.eng.phase = .idle) :
    exec i s = sendBuilt { s with req := some r } := by
  have read : ∀ n ap p, some (tableRead (maskIndex n) ap) = some r → access n ap .read p s = sendBuilt { s with req := some r } := by
    intro n ap p hr
    rw [access_of_built s n ap .read p r ((buildRequest_read n ap p).trans hr), if_pos hp]
  have write : ∀ n ap w, some (tableWrite (maskIndex n) ap w) = some r →
      access n ap .write (some w) s = sendBuilt { s with req := some r } := by
    intro n ap w hr
    rw [access_of_built s n ap .write (some w) r ((buildRequest_write n ap w).trans hr), if_pos hp]
  cases i
  case rdDp0 => exact read 0 false none h
  case rdDp1 => exact read 1 false none h
  case rdDp2 => exact read 2 false none h
  case rdDp3 => exact read 3 false none h
  case rdDp n p => exact read n false p (by rw [maskIndex_eq_mod]; exact h)
  case rdAp0 => exact read 0 true none h
  case rdAp1 => exact read 1 true none h
  case rdAp2 => exact read 2 true none h
  case rdAp3 => exact read 3 true none h
  case rdAp n p => exact read n true p (by rw [maskIndex_eq_mod]; exact h)
  case wrDp0 w => exact write 0 false w h
  case wrDp1 w => exact write 1 false w h
  case wrDp2 w => exact write 2 false w h
  case wrDp3 w => exact write 3 false w h
  case wrDp n p =>
    cases p with
    | none => simp [requestOf, readTarget, writeTarget] at h
    | some w => exact write n false w (by rw [maskIndex_eq_mod]; exact h)
  case wrAp0 w => exact write 0 true w h
  case wrAp1 w => exact write 1 true w h
  case wrAp2 w => exact write 2 true w h
  case wrAp3 w => exact write 3 true w h
  case wrAp n p =>
    cases p with
    | none => simp [requestOf, readTarget, writeTarget] at h
    | some w => exact write n true w (by rw [maskIndex_eq_mod]; exact h)
  case ackInvalid0 => simp [requestOf, readTarget, writeTarget] at h
  case ackAck => simp [requestOf, readTarget, writeTarget] at h
  case ackWait => simp [requestOf, readTarget, writeTarget] at h
  case ackInvalid3 => simp [requestOf, readTarget, writeTarget] at h
  case ackFault => simp [requestOf, readTarget, writeTarget] at h
  case ackInvalid5 => simp [requestOf, readTarget, writeTarget] at h
  case ackInvalid6 => simp [requestOf, readTarget, writeTarget] at h
  case ackInvalid7 => simp [requestOf, readTarget, writeTarget] at h

/-- The Requests of the table are built (R26). -/
theorem tableRead_built (idx : Index) (ap : Bool) : (tableRead idx ap).built = true := by
  simp [tableRead, Request.built, headerOf_eq_table]

theorem tableWrite_built (idx : Index) (ap : Bool) (w : Word) : (tableWrite idx ap w).built = true := by
  simp [tableWrite, Request.built, headerOf_eq_table]

theorem requestOf_built (i : Instr) (r : Request) (h : requestOf i = some r) : r.built = true := by
  rw [requestOf] at h
  split at h
  · cases h; exact tableRead_built ..
  · cases h; exact tableWrite_built ..
  · cases h

/-- What the data phase queues is there for every built Request (R119). -/
theorem dataPhaseValues_of_built (r : Request) (h : r.built = true) : ∃ d p, dataPhaseValues r = some (d, p) := by
  rcases r with ⟨idx, ap, dir, payload, header⟩
  cases dir <;> cases payload <;> simp_all [Request.built, dataPhaseValues]

/-- The two values the data phases queue are the positions of their rows (R150 to R152). -/
theorem phaseBits_of_dataPhaseValues (r : Request) (d p : Nat) (hb : r.built = true) (hv : dataPhaseValues r = some (d, p)) :
    r.phaseBits .qData = bitsOf d 32 ∧ r.phaseBits .qPar = bitsOf p 1 := by
  have hbit : ∀ b : Bool, bitsOf b.toNat 1 = [b] := by decide
  rcases r with ⟨idx, ap, dir, _ | w, header⟩ <;> cases dir
  · simp [Request.built] at hb
  · cases hv
    refine ⟨rfl, ?_⟩
    show [parity32 0#32] = bitsOf 0 1
    decide
  · cases hv
    exact ⟨rfl, (hbit _).symm⟩
  · simp [Request.built] at hb

end Sys2Proof.Machine
end

