-- ==== Sys2Proof/Laws/PerInstr.lean ====
section
/-! SUPPORT. The family RoundTrip, one lemma per constructor: a well-formed instruction is read back from its bytes as the exact row it
stands for (30_encoding.md R83, R84, R89). -/

open Sys2Proof.Machine

namespace Sys2Proof.Laws.RoundTrip

/-- Decoding the bytes of a well-formed instruction, whatever follows them, gives its exact row and what follows. -/
def Statement (i : Instr) : Prop :=
  i.wellFormed = true → ∀ rest : List Byte, decode (encode i ++ rest) = .ok (i.exact, rest)

/-- The bytes of an exact Read header. -/
theorem decode_readHeader (idx : Index) (ap : Bool) (rest : List Byte) :
    decode (headerTable .read ap idx :: rest) = .ok (readInstr idx ap, rest) := by
  have h : isHeader (headerTable .read ap idx) = true ∧ headerDir (headerTable .read ap idx) = .read ∧
      headerIdx (headerTable .read ap idx) = idx ∧ headerAp (headerTable .read ap idx) = ap := by
    cases ap <;> revert idx <;> decide
  simp [decode, h.1, h.2.1, h.2.2.1, h.2.2.2]

/-- The bytes of an exact Write header and its payload. -/
theorem decode_writeHeader (idx : Index) (ap : Bool) (w : Word) (rest : List Byte) :
    decode (headerTable .write ap idx :: (payloadBytes w ++ rest)) = .ok (writeInstr idx ap w, rest) := by
  have h : isHeader (headerTable .write ap idx) = true ∧ headerDir (headerTable .write ap idx) = .write ∧
      headerIdx (headerTable .write ap idx) = idx ∧ headerAp (headerTable .write ap idx) = ap := by
    cases ap <;> revert idx <;> decide
  simp [decode, h.1, h.2.1, h.2.2.1, h.2.2.2, takePayload_payloadBytes]

theorem rdDp0 : Statement .rdDp0 := fun _ rest => decode_readHeader 0#2 false rest

theorem rdDp1 : Statement .rdDp1 := fun _ rest => decode_readHeader 1#2 false rest

theorem rdDp2 : Statement .rdDp2 := fun _ rest => decode_readHeader 2#2 false rest

theorem rdDp3 : Statement .rdDp3 := fun _ rest => decode_readHeader 3#2 false rest

theorem rdAp0 : Statement .rdAp0 := fun _ rest => decode_readHeader 0#2 true rest

theorem rdAp1 : Statement .rdAp1 := fun _ rest => decode_readHeader 1#2 true rest

theorem rdAp2 : Statement .rdAp2 := fun _ rest => decode_readHeader 2#2 true rest

theorem rdAp3 : Statement .rdAp3 := fun _ rest => decode_readHeader 3#2 true rest

theorem wrDp0 (payload : Word) : Statement (.wrDp0 payload) := fun _ rest => decode_writeHeader 0#2 false payload rest

theorem wrDp1 (payload : Word) : Statement (.wrDp1 payload) := fun _ rest => decode_writeHeader 1#2 false payload rest

theorem wrDp2 (payload : Word) : Statement (.wrDp2 payload) := fun _ rest => decode_writeHeader 2#2 false payload rest

theorem wrDp3 (payload : Word) : Statement (.wrDp3 payload) := fun _ rest => decode_writeHeader 3#2 false payload rest

theorem wrAp0 (payload : Word) : Statement (.wrAp0 payload) := fun _ rest => decode_writeHeader 0#2 true payload rest

theorem wrAp1 (payload : Word) : Statement (.wrAp1 payload) := fun _ rest => decode_writeHeader 1#2 true payload rest

theorem wrAp2 (payload : Word) : Statement (.wrAp2 payload) := fun _ rest => decode_writeHeader 2#2 true payload rest

theorem wrAp3 (payload : Word) : Statement (.wrAp3 payload) := fun _ rest => decode_writeHeader 3#2 true payload rest

theorem rdDp (index : Nat) (payload : Option Word) : Statement (.rdDp index payload) := by
  intro _ rest
  rw [encode, Instr.exact, headerOf_eq_table]
  exact decode_readHeader (maskIndex index) false rest

theorem rdAp (index : Nat) (payload : Option Word) : Statement (.rdAp index payload) := by
  intro _ rest
  rw [encode, Instr.exact, headerOf_eq_table]
  exact decode_readHeader (maskIndex index) true rest

theorem wrDp (index : Nat) (payload : Option Word) : Statement (.wrDp index payload) := by
  intro hw rest
  obtain ⟨w, rfl⟩ : ∃ w, payload = some w := Option.isSome_iff_exists.mp hw
  rw [encode, Instr.exact, headerOf_eq_table]
  exact decode_writeHeader (maskIndex index) false w rest

theorem wrAp (index : Nat) (payload : Option Word) : Statement (.wrAp index payload) := by
  intro hw rest
  obtain ⟨w, rfl⟩ : ∃ w, payload = some w := Option.isSome_iff_exists.mp hw
  rw [encode, Instr.exact, headerOf_eq_table]
  exact decode_writeHeader (maskIndex index) true w rest

theorem ackInvalid0 : Statement .ackInvalid0 := fun _ _ => rfl

theorem ackAck : Statement .ackAck := fun _ _ => rfl

theorem ackWait : Statement .ackWait := fun _ _ => rfl

theorem ackInvalid3 : Statement .ackInvalid3 := fun _ _ => rfl

theorem ackFault : Statement .ackFault := fun _ _ => rfl

theorem ackInvalid5 : Statement .ackInvalid5 := fun _ _ => rfl

theorem ackInvalid6 : Statement .ackInvalid6 := fun _ _ => rfl

theorem ackInvalid7 : Statement .ackInvalid7 := fun _ _ => rfl

end Sys2Proof.Laws.RoundTrip
end

