-- ==== Sys2Proof/Tests/Slice0.lean ====
section
/-! SUPPORT. Tests on fixed values, each a step or a single operation; expected values are the spec's (30_encoding.md R83, R89,
95_test_vectors.md L1, L2, L3) or worked by hand from the rules named. Then a witness for the hypotheses of every statement. -/

namespace Sys2Proof.Tests

open Sys2Proof Sys2Proof.Machine

/-! ## Helpers -/

/-- Bits written as digits, lowest offset first. -/
def bools (digits : List Nat) : List Bool := digits.map fun d => d == 1

/-- What the wire returns over one frame: anything under the header, then the ack, the data and the parity, low bit first. -/
def frameIn (ack data par : Nat) : List Bool := bitsOf 0 8 ++ bitsOf ack 3 ++ bitsOf data 32 ++ bitsOf par 1

/-- IDLE after reset, the wire about to return one frame, seven calls answered. -/
def ready (ack data par : Nat) : State :=
  { State.reset with tr := { State.reset.tr with wire := .bits (frameIn ack data par), answers := List.replicate 7 .returns } }

/-- What a request left: the phase, the Response, and every position queued. -/
def sent : Result → Option (Phase × Option Response × List Bool)
  | .next s => some (s.eng.phase, s.response, s.tr.mem.out)
  | .fault _ => none
  | .refused _ => none

/-- CLASSIFY of a Read with its three latches written. -/
def latched (a : AckBits) (d : Word) (p : Bool) : State :=
  { State.reset with
    req := some (tableRead 0#2 false)
    eng := { phase := .classify, ackOff := some 8, ack := some a, data := some d, par := some p, err := none } }

/-- What CLASSIFY left: the phase and the Response. -/
def classified : Result → Option (Phase × Option Response)
  | .next s => some (s.eng.phase, s.response)
  | .fault _ => none
  | .refused _ => none

/-- A state in the middle of a transaction of `r` that began on an empty buffer: its phase, and the first `n` positions of its frame. -/
def mid (r : Request) (p : Phase) (n : Nat) (answers : List Answer) : State :=
  { State.reset with
    req := some r
    eng := { phase := p
             ackOff := if 11 ≤ n then some 8 else none
             ack := if p = .cData ∨ p = .cPar then some 1#3 else none
             data := if p = .cPar then some 0#32 else none
             par := none
             err := none }
    tr := { mem := { out := (frameBits r).take n, shifted := [] }, wire := .loopback, answers := answers } }

/-- IDLE after reset with one command and these answers. -/
def asked (c : Command) (answers : List Answer) : State :=
  { State.reset with
    tr := { State.reset.tr with wire := .loopback, answers := answers }
    caller := { commands := [c], received := [] } }

/-! ## Well-formedness: each check refuses an ill-formed term (R119) -/

theorem test_wellFormed_refuses_wrDp : Instr.wellFormed (.wrDp 0 none) = false := by decide
theorem test_wellFormed_refuses_wrAp : Instr.wellFormed (.wrAp 3 none) = false := by decide
theorem test_wellFormed_accepts : Instr.wellFormed (.wrAp 7 (some 0#32)) = true ∧ Instr.wellFormed (.rdDp 255 (some 1#32)) = true := by
  decide

/-! ## Decoding: words written out from R83 and R89, a Write's payload low byte first (log 3) -/

theorem test_decodeRdDp0 : decode [0b10100101#8] = .ok (.rdDp0, []) := by decide
theorem test_decodeRdDp1 : decode [0b10001101#8] = .ok (.rdDp1, []) := by decide
theorem test_decodeRdDp2 : decode [0b10010101#8] = .ok (.rdDp2, []) := by decide
theorem test_decodeRdDp3 : decode [0b10111101#8] = .ok (.rdDp3, []) := by decide
theorem test_decodeRdAp0 : decode [0b10000111#8] = .ok (.rdAp0, []) := by decide
theorem test_decodeRdAp1 : decode [0b10101111#8] = .ok (.rdAp1, []) := by decide
theorem test_decodeRdAp2 : decode [0b10110111#8] = .ok (.rdAp2, []) := by decide
theorem test_decodeRdAp3 : decode [0b10011111#8] = .ok (.rdAp3, []) := by decide
theorem test_decodeWrDp0 : decode [0b10000001#8, 0x77#8, 0x14#8, 0xB1#8, 0x0B#8] = .ok (.wrDp0 0x0BB11477#32, []) := by decide
theorem test_decodeWrDp1 : decode [0b10101001#8, 0x77#8, 0x14#8, 0xB1#8, 0x0B#8] = .ok (.wrDp1 0x0BB11477#32, []) := by decide
theorem test_decodeWrDp2 : decode [0b10110001#8, 0x77#8, 0x14#8, 0xB1#8, 0x0B#8] = .ok (.wrDp2 0x0BB11477#32, []) := by decide
theorem test_decodeWrDp3 : decode [0b10011001#8, 0x77#8, 0x14#8, 0xB1#8, 0x0B#8] = .ok (.wrDp3 0x0BB11477#32, []) := by decide
theorem test_decodeWrAp0 : decode [0b10100011#8, 0x77#8, 0x14#8, 0xB1#8, 0x0B#8] = .ok (.wrAp0 0x0BB11477#32, []) := by decide
theorem test_decodeWrAp1 : decode [0b10001011#8, 0x77#8, 0x14#8, 0xB1#8, 0x0B#8] = .ok (.wrAp1 0x0BB11477#32, []) := by decide
theorem test_decodeWrAp2 : decode [0b10010011#8, 0x77#8, 0x14#8, 0xB1#8, 0x0B#8] = .ok (.wrAp2 0x0BB11477#32, []) := by decide
theorem test_decodeWrAp3 : decode [0b10111011#8, 0x77#8, 0x14#8, 0xB1#8, 0x0B#8] = .ok (.wrAp3 0x0BB11477#32, []) := by decide
theorem test_decodeAckInvalid0 : decode [0b00000000#8] = .ok (.ackInvalid0, []) := by decide
theorem test_decodeAckAck : decode [0b00000001#8] = .ok (.ackAck, []) := by decide
theorem test_decodeAckWait : decode [0b00000010#8] = .ok (.ackWait, []) := by decide
theorem test_decodeAckInvalid3 : decode [0b00000011#8] = .ok (.ackInvalid3, []) := by decide
theorem test_decodeAckFault : decode [0b00000100#8] = .ok (.ackFault, []) := by decide
theorem test_decodeAckInvalid5 : decode [0b00000101#8] = .ok (.ackInvalid5, []) := by decide
theorem test_decodeAckInvalid6 : decode [0b00000110#8] = .ok (.ackInvalid6, []) := by decide
theorem test_decodeAckInvalid7 : decode [0b00000111#8] = .ok (.ackInvalid7, []) := by decide

/-! The generic rows: the headers of the masked index (L2.1), which the decoder reads as the exact rows (log 4). -/

theorem test_encodeRdDp : encode (.rdDp 255 none) = [0b10111101#8] := by decide
theorem test_encodeRdAp : encode (.rdAp 256 none) = [0b10000111#8] := by decide
theorem test_encodeWrDp : encode (.wrDp 6 (some 0x0BB11477#32)) = [0b10110001#8, 0x77#8, 0x14#8, 0xB1#8, 0x0B#8] := by decide
theorem test_encodeWrAp : encode (.wrAp 5 (some 0xDEADBEEF#32)) = [0b10001011#8, 0xEF#8, 0xBE#8, 0xAD#8, 0xDE#8] := by decide

/-- L2.1: parity cleared, Park cleared, Stop set, Start cleared; and a Write header alone (R119). -/
theorem test_decode_rejects : decode [0x85#8] = .error (.notAHeader 0x85#8) ∧ decode [0x25#8] = .error (.notAHeader 0x25#8) ∧
    decode [0xE5#8] = .error (.notAHeader 0xE5#8) ∧ decode [0xA4#8] = .error (.notAHeader 0xA4#8) ∧
    decode [0xA9#8, 1#8, 2#8, 3#8] = .error (.missingPayload 0xA9#8) ∧ decode [] = .error .nothing := by decide

/-- A table word's bytes above its bits are zero. -/
theorem test_decodeTableWord : decodeTableWord 8 0xBB = some (.wrAp3 0#32) ∧ decodeTableWord 8 0xA5 = some .rdDp0 ∧
    decodeTableWord 8 4 = some .ackFault ∧ decodeTableWord 8 0x85 = none := by decide

/-! ## The sixteen requests and the four kinds: one `send` each on an empty buffer -/

/-- Scenario A (R192, L1.5). -/
theorem test_execRdDp0 : sent (exec (.rdDp0) (ready 1 0x00000001 1)) =
    some (.done, some ⟨.ack, some 0x00000001#32⟩,
      bools [1, 0, 1, 0, 0, 1, 0, 1] ++ List.replicate 36 false) := by decide

/-- L2.5. -/
theorem test_execRdDp1 : sent (exec (.rdDp1) (ready 4 0x00000000 0)) =
    some (.done, some ⟨.fault, some 0x00000000#32⟩,
      bools [1, 0, 1, 1, 0, 0, 0, 1] ++ List.replicate 36 false) := by decide

/-- Scenario B (R192): the mismatch is ignored under WAIT. -/
theorem test_execRdDp2 : sent (exec (.rdDp2) (ready 2 0xFFFFFFFF 1)) =
    some (.done, some ⟨.wait, some 0xFFFFFFFF#32⟩,
      bools [1, 0, 1, 0, 1, 0, 0, 1] ++ List.replicate 36 false) := by decide

/-- L2.4: wire high throughout. -/
theorem test_execRdDp3 : sent (exec (.rdDp3) (ready 7 0xFFFFFFFF 1)) =
    some (.done, some ⟨.invalid, some 0xFFFFFFFF#32⟩,
      bools [1, 0, 1, 1, 1, 1, 0, 1] ++ List.replicate 36 false) := by decide

/-- L2.4: mismatch on the top bit. -/
theorem test_execRdAp0 : sent (exec (.rdAp0) (ready 1 0x80000000 0)) =
    some (.done, some ⟨.invalid, some 0x80000000#32⟩,
      bools [1, 1, 1, 0, 0, 0, 0, 1] ++ List.replicate 36 false) := by decide

/-- L2.4: top bit only. -/
theorem test_execRdAp1 : sent (exec (.rdAp1) (ready 1 0x80000000 1)) =
    some (.done, some ⟨.ack, some 0x80000000#32⟩,
      bools [1, 1, 1, 1, 0, 1, 0, 1] ++ List.replicate 36 false) := by decide

/-- L2.4: two flipped bits pass unseen. -/
theorem test_execRdAp2 : sent (exec (.rdAp2) (ready 1 0x0BB11474 1)) =
    some (.done, some ⟨.ack, some 0x0BB11474#32⟩,
      bools [1, 1, 1, 0, 1, 1, 0, 1] ++ List.replicate 36 false) := by decide

/-- Scenario C (R162, R192). -/
theorem test_execRdAp3 : sent (exec (.rdAp3) (ready 1 0x00000003 1)) =
    some (.done, some ⟨.invalid, some 0x00000003#32⟩,
      bools [1, 1, 1, 1, 1, 0, 0, 1] ++ List.replicate 36 false) := by decide

/-- L2.5: 31 zeros, then a one, then parity 1. -/
theorem test_execWrDp0 : sent (exec (.wrDp0 0x80000000#32) (ready 1 0x00000000 0)) =
    some (.done, some ⟨.ack, none⟩,
      bools [1, 0, 0, 0, 0, 0, 0, 1] ++ bools [0, 0, 0] ++
      bools [0, 0, 0, 0, 0, 0, 0, 0, 0, 0, 0, 0, 0, 0, 0, 0, 0, 0, 0, 0, 0, 0, 0, 0, 0, 0, 0, 0, 0, 0, 0, 1] ++ bools [1]) := by decide

/-- R187; payload and parity are queued whatever the ack. -/
theorem test_execWrDp1 : sent (exec (.wrDp1 0x00000001#32) (ready 4 0x00000000 0)) =
    some (.done, some ⟨.fault, none⟩,
      bools [1, 0, 0, 1, 0, 1, 0, 1] ++ bools [0, 0, 0] ++
      bools [1, 0, 0, 0, 0, 0, 0, 0, 0, 0, 0, 0, 0, 0, 0, 0, 0, 0, 0, 0, 0, 0, 0, 0, 0, 0, 0, 0, 0, 0, 0, 0] ++ bools [1]) := by decide

/-- L2.5, R163. -/
theorem test_execWrDp2 : sent (exec (.wrDp2 0x00000003#32) (ready 1 0x00000000 0)) =
    some (.done, some ⟨.ack, none⟩,
      bools [1, 0, 0, 0, 1, 1, 0, 1] ++ bools [0, 0, 0] ++
      bools [1, 1, 0, 0, 0, 0, 0, 0, 0, 0, 0, 0, 0, 0, 0, 0, 0, 0, 0, 0, 0, 0, 0, 0, 0, 0, 0, 0, 0, 0, 0, 0] ++ bools [0]) := by decide

/-- R187; parity 1 (L2.2). -/
theorem test_execWrDp3 : sent (exec (.wrDp3 0x12345678#32) (ready 3 0x00000000 0)) =
    some (.done, some ⟨.invalid, none⟩,
      bools [1, 0, 0, 1, 1, 0, 0, 1] ++ bools [0, 0, 0] ++
      bools [0, 0, 0, 1, 1, 1, 1, 0, 0, 1, 1, 0, 1, 0, 1, 0, 0, 0, 1, 0, 1, 1, 0, 0, 0, 1, 0, 0, 1, 0, 0, 0] ++ bools [1]) := by decide

/-- L2.5. -/
theorem test_execWrAp0 : sent (exec (.wrAp0 0xFFFFFFFF#32) (ready 2 0x00000000 0)) =
    some (.done, some ⟨.wait, none⟩,
      bools [1, 1, 0, 0, 0, 1, 0, 1] ++ bools [0, 0, 0] ++
      bools [1, 1, 1, 1, 1, 1, 1, 1, 1, 1, 1, 1, 1, 1, 1, 1, 1, 1, 1, 1, 1, 1, 1, 1, 1, 1, 1, 1, 1, 1, 1, 1] ++ bools [0]) := by decide

/-- L2.5, R164. -/
theorem test_execWrAp1 : sent (exec (.wrAp1 0xDEADBEEF#32) (ready 2 0x00000000 0)) =
    some (.done, some ⟨.wait, none⟩,
      bools [1, 1, 0, 1, 0, 0, 0, 1] ++ bools [0, 0, 0] ++
      bools [1, 1, 1, 1, 0, 1, 1, 1, 0, 1, 1, 1, 1, 1, 0, 1, 1, 0, 1, 1, 0, 1, 0, 1, 0, 1, 1, 1, 1, 0, 1, 1] ++ bools [0]) := by decide

/-- R187; parity 1 (L2.2). -/
theorem test_execWrAp2 : sent (exec (.wrAp2 0x7FFFFFFF#32) (ready 1 0x00000000 0)) =
    some (.done, some ⟨.ack, none⟩,
      bools [1, 1, 0, 0, 1, 0, 0, 1] ++ bools [0, 0, 0] ++
      bools [1, 1, 1, 1, 1, 1, 1, 1, 1, 1, 1, 1, 1, 1, 1, 1, 1, 1, 1, 1, 1, 1, 1, 1, 1, 1, 1, 1, 1, 1, 1, 0] ++ bools [1]) := by decide

/-- L2.5. -/
theorem test_execWrAp3 : sent (exec (.wrAp3 0x00000000#32) (ready 7 0x00000000 0)) =
    some (.done, some ⟨.invalid, none⟩,
      bools [1, 1, 0, 1, 1, 1, 0, 1] ++ bools [0, 0, 0] ++
      bools [0, 0, 0, 0, 0, 0, 0, 0, 0, 0, 0, 0, 0, 0, 0, 0, 0, 0, 0, 0, 0, 0, 0, 0, 0, 0, 0, 0, 0, 0, 0, 0] ++ bools [0]) := by decide

/-- L2.1: 255 mod 4 = 3; P1's data. -/
theorem test_execRdDp : sent (exec (.rdDp 255 none) (ready 1 0x0BB11477 1)) =
    some (.done, some ⟨.ack, some 0x0BB11477#32⟩,
      bools [1, 0, 1, 1, 1, 1, 0, 1] ++ List.replicate 36 false) := by decide

/-- program P6; the payload offered is dropped (R119). -/
theorem test_execRdAp : sent (exec (.rdAp 7 (some 0xFFFFFFFF#32)) (ready 1 0x00000000 0)) =
    some (.done, some ⟨.ack, some 0x00000000#32⟩,
      bools [1, 1, 1, 1, 1, 0, 0, 1] ++ List.replicate 36 false) := by decide

/-- L2.1: 6 mod 4 = 2. -/
theorem test_execWrDp : sent (exec (.wrDp 6 (some 0x00000003#32)) (ready 1 0x00000000 0)) =
    some (.done, some ⟨.ack, none⟩,
      bools [1, 0, 0, 0, 1, 1, 0, 1] ++ bools [0, 0, 0] ++
      bools [1, 1, 0, 0, 0, 0, 0, 0, 0, 0, 0, 0, 0, 0, 0, 0, 0, 0, 0, 0, 0, 0, 0, 0, 0, 0, 0, 0, 0, 0, 0, 0] ++ bools [0]) := by decide

/-- L2.1: 5 mod 4 = 1. -/
theorem test_execWrAp : sent (exec (.wrAp 5 (some 0xDEADBEEF#32)) (ready 2 0x00000000 0)) =
    some (.done, some ⟨.wait, none⟩,
      bools [1, 1, 0, 1, 0, 0, 0, 1] ++ bools [0, 0, 0] ++
      bools [1, 1, 1, 1, 0, 1, 1, 1, 0, 1, 1, 1, 1, 1, 0, 1, 1, 0, 1, 1, 0, 1, 0, 1, 0, 1, 1, 1, 1, 0, 1, 1] ++ bools [0]) := by decide

/-! ## The eight ack patterns (L2.4) -/

theorem test_execAckInvalid0 : classified (exec .ackInvalid0 (latched 0#3 0x00000000#32 false)) =
    some (.done, some ⟨.invalid, some 0x00000000#32⟩) := by decide

theorem test_execAckAck : classified (exec .ackAck (latched 1#3 0xFFFFFFFF#32 false)) =
    some (.done, some ⟨.ack, some 0xFFFFFFFF#32⟩) := by decide

theorem test_execAckWait : classified (exec .ackWait (latched 2#3 0x00000003#32 true)) =
    some (.done, some ⟨.wait, some 0x00000003#32⟩) := by decide

theorem test_execAckInvalid3 : classified (exec .ackInvalid3 (latched 3#3 0x00000001#32 true)) =
    some (.done, some ⟨.invalid, some 0x00000001#32⟩) := by decide

theorem test_execAckFault : classified (exec .ackFault (latched 4#3 0x00000003#32 true)) =
    some (.done, some ⟨.fault, some 0x00000003#32⟩) := by decide

theorem test_execAckInvalid5 : classified (exec .ackInvalid5 (latched 5#3 0x00000001#32 true)) =
    some (.done, some ⟨.invalid, some 0x00000001#32⟩) := by decide

theorem test_execAckInvalid6 : classified (exec .ackInvalid6 (latched 6#3 0x00000001#32 true)) =
    some (.done, some ⟨.invalid, some 0x00000001#32⟩) := by decide

theorem test_execAckInvalid7 : classified (exec .ackInvalid7 (latched 7#3 0xFFFFFFFF#32 true)) =
    some (.done, some ⟨.invalid, some 0xFFFFFFFF#32⟩) := by decide

/-- L2.4: a parity mismatch under ACK. -/
theorem test_execAckAck_mismatch : classified (exec .ackAck (latched 1#3 0x0BB11475#32 true)) =
    some (.done, some ⟨.invalid, some 0x0BB11475#32⟩) := by decide


/-! ## The step, the transport and the boundary -/

/-- A request word placed after reset runs: its first call has not been answered, so the engine waits in Q_HDR (R246). -/
theorem test_step_withFetchWord : classified (step (State.reset.withFetchWord 8 0xA5)) = some (.qHdr, none) ∧
    classified (step (State.reset.withFetchWord 8 0x81)) = some (.qHdr, none) := by decide

/-- An ack pattern placed after reset is classified (log 5). -/
theorem test_step_withFetchWord_ack : classified (step (State.reset.withFetchWord 8 2)) = some (.done, some ⟨.wait, none⟩) := by decide

/-- The state a step answered. -/
def next? : Result → Option State
  | .next s => some s
  | .fault _ => none
  | .refused _ => none

/-- The fault or the refusal a step ended in. -/
def stop? : Result → Option (Fault ⊕ Refusal)
  | .next _ => none
  | .fault f => some (.inl f)
  | .refused r => some (.inr r)

/-- U14, R91: a byte that is no header is refused at the hand-off, and so is a Write without payload (R119); each other refusal once. -/
theorem test_step_refuses : stop? (step (asked (.word [0x85#8]) [])) = some (.inr .notAHeader) ∧
    stop? (step (asked (.word [0x81#8]) [])) = some (.inr .writeWithoutPayload) ∧
    stop? (step (asked (.word [0x01#8]) [])) = some (.inr .notAHeader) ∧
    stop? (step (asked .send [])) = some (.inr .noRequestBuilt) ∧
    stop? (step (asked .take [])) = some (.inr .nothingToTake) ∧
    stop? (exec .rdDp0 (latched 1#3 0#32 false)) = some (.inr .transactionInProgress) ∧
    stop? (exec .ackAck State.reset) = some (.inr .notClassifying) := by decide

/-- Program P2's second attempt: the buffer holds 44 positions, all clocked; `ack_off = 52`, and 88 positions are left. -/
theorem test_offsets_do_not_start_at_zero :
    (next? (exec (.wrAp1 0xDEADBEEF#32) { ready 1 0 0 with
      tr := { (ready 1 0 0).tr with mem := { out := bitsOf 0 44, shifted := bitsOf 0 44 } } })).map
        (fun s => (s.eng.ackOff, s.tr.mem.out.length, s.tr.mem.clocked, s.response)) =
    some (some 52, 88, 88, some ⟨.ack, none⟩) := by decide

/-- Program P5's start: the third call fails and gains nothing. -/
def p5 : State := { State.reset with tr := { State.reset.tr with answers := [.returns, .returns, .fails ⟨9⟩ [] 0, .returns] } }

/-- Program P5: the 11 bits queued before the failing call stay, none is clocked, no call follows. -/
theorem test_failure_in_mid_frame :
    (next? (exec .rdDp0 p5)).map (fun s => (s.eng.phase, s.eng.err, s.response)) = some (.failed, some ⟨9⟩, none) ∧
    (next? (exec .rdDp0 p5)).map (fun s => (s.eng.ackOff, s.tr.mem, s.tr.answers)) =
      some (some 8, { out := bools [1, 0, 1, 0, 0, 1, 0, 1, 0, 0, 0], shifted := [] }, [.returns]) := by decide

/-- L2.6's last row: the seventh call fails. -/
def l26 : State :=
  { ready 1 3 0 with tr := { (ready 1 3 0).tr with answers := List.replicate 6 .returns ++ [.fails ⟨9⟩ [] 0] } }

/-- L2.6, last row: the ack and the data were captured, no Response is formed, all 44 positions are clocked. -/
theorem test_failure_at_the_last_capture :
    (next? (exec .rdAp2 l26)).map (fun s => (s.eng.phase, s.eng.err, s.response)) = some (.failed, some ⟨9⟩, none) ∧
    (next? (exec .rdAp2 l26)).map (fun s => (s.eng.ack, s.eng.data, s.tr.mem.out.length, s.tr.mem.clocked)) =
      some (some 1#3, some 3#32, 44, 44) := by decide

/-- Program P4: on a loopback the Write's own status is INVALID, and its data and parity are found where a Read captures. -/
theorem test_loopback_round_trip :
    (next? (exec (.wrDp0 0x0BB11477#32) (asked .take (List.replicate 5 .returns)))).map
      (fun s => (s.response, s.tr.mem.valueAt 11 32, s.tr.mem.valueAt 43 1)) = some (some ⟨.invalid, none⟩, 0x0BB11477, 1) := by decide

/-- What a call returned and the buffer's two lengths. -/
def called : CallResult → Option (Nat × Nat × Nat)
  | .returned v t => some (v, t.mem.out.length, t.mem.clocked)
  | .failed _ _ => none
  | .waiting _ => none

/-- L2.7's buffer after its three queues, on a loopback. -/
def l27 : Transport :=
  { mem := { out := bools [1, 0, 1, 0, 0, 1, 0, 1, 1, 1, 0, 1, 1, 1], shifted := [] }, wire := .loopback
    answers := [.returns, .returns, .returns] }

/-- L2.7: bits above the width are ignored, and the offset is the old length. -/
theorem test_queue : queueCall 0x1F 3 { l27 with mem := { l27.mem with out := l27.mem.out.take 11 } } =
    .returned 11 { l27 with answers := [.returns, .returns] } := by decide

/-- L2.7: `Capture(8, 3)` clocks all 14 positions and is 3; `Capture(12, 3)` fails. -/
theorem test_capture : called (captureCall 8 3 l27) = some (3, 14, 14) ∧ called (captureCall 12 3 l27) = none := by decide

/-- L2.2. -/
theorem test_parity : [0x00000000#32, 0x00000001#32, 0x00000002#32, 0x00000003#32, 0x00010001#32, 0x80000000#32, 0x7FFFFFFF#32,
      0xFFFFFFFE#32, 0xFFFFFFFF#32, 0xA5A5A5A5#32, 0x12345678#32, 0x0BB11477#32, 0xDEADBEEF#32].map parity32 =
    bools [0, 1, 1, 0, 0, 1, 1, 1, 0, 0, 1, 1, 0] := by decide

/-- L2.1: masking on construction, and the two headers of R83 it must give. -/
theorem test_masking : (buildRequest 4 false .read none).map (fun r => (r.idx, r.header)) = some (0#2, 165#8) ∧
    (buildRequest 7 true .read none).map (fun r => (r.idx, r.header)) = some (3#2, 159#8) ∧
    (buildRequest 5 true .write (some 0#32)).map (fun r => (r.idx, r.header)) = some (1#2, 139#8) := by decide

/-- DONE, with and without the caller taking the Response (R157); FAILED, likewise (R221); reset in mid-frame (R231). -/
theorem test_take_and_reset :
    classified (step { latched 1#3 0#32 false with
      eng := { (latched 1#3 0#32 false).eng with phase := .done }, response := some ⟨.ack, some 0#32⟩
      caller := { commands := [.take], received := [] } }) = some (.idle, none) ∧
    stop? (step { State.reset with eng := { Engine.empty with phase := .failed, err := some ⟨9⟩ } }) =
      some (.inl (.transportError ⟨9⟩)) ∧
    sent (step { mid (tableRead 0#2 false) .qData 11 [] with caller := { commands := [.reset], received := [] } }) =
      some (.idle, none, bools [1, 0, 1, 0, 0, 1, 0, 1, 0, 0, 0]) := by decide

/-- A reset in C_ACK after the capture has clocked `m` positions: the frame stays queued, `m` of it clocked (R231). -/
def resetInCAck (m : Nat) : Option (Phase × Nat × Nat) :=
  ((next? (exec .rdDp0 (asked .reset (List.replicate 4 .returns ++ [.pending 0 m])))).bind fun s => next? (step s)).map fun s =>
    (s.eng.phase, s.tr.mem.out.length, s.tr.mem.clocked)

/-- R121: the Request held after a build is sent by `send` and by `send` again, and the Response is the wire's: scenario A, then WAIT. -/
theorem test_resend :
    classified (step { ready 1 1 1 with req := some (tableRead 0#2 false), caller := { commands := [.send], received := [] } }) =
      some (.done, some ⟨.ack, some 1#32⟩) ∧
    classified (step { ready 2 1 1 with req := some (tableRead 0#2 false), caller := { commands := [.send], received := [] } }) =
      some (.done, some ⟨.wait, some 1#32⟩) := by decide

/-- R231: "none, part or all of the frame". -/
theorem test_reset_in_cAck : resetInCAck 0 = some (.idle, 44, 0) ∧ resetInCAck 8 = some (.idle, 44, 8) ∧
    resetInCAck 44 = some (.idle, 44, 44) := by decide

/-- A header call that has placed five of its eight positions and then returns: the header once, at offset 0 (R52, R147). -/
theorem test_waiting_queue :
    queueCall 0xA5 8 { l27 with mem := { out := bools [1, 0, 1, 0, 0], shifted := [] }, progress := { queued := 5 } } =
      .returned 0 { l27 with mem := { out := bools [1, 0, 1, 0, 0, 1, 0, 1], shifted := [] }, answers := [.returns, .returns] } := by
  decide

/-! ## Witnesses: concrete states and operands that meet the hypotheses of each statement, one for each clause -/

/-- Hypothesis of HeaderBitsOfBuiltRequest, HeadersHaveTheFixedBits and HeaderParityDetectsOddFlips: the lowest and the highest index, an
index out of range, both directions. -/
theorem witness_builtRequest :
    buildRequest 0 false .write (some 0#32) = some (tableWrite 0#2 false 0#32) ∧
    buildRequest 3 true .read none = some (tableRead 3#2 true) ∧
    buildRequest 255 false .read (some 1#32) = some (tableRead 3#2 false) := by decide

theorem witness_DecodeOfEncodeIsTheInstruction :
    Instr.wellFormed (.wrAp 255 (some 0xFFFFFFFF#32)) = true ∧ Instr.wellFormed (.wrDp3 0#32) = true ∧
    Instr.wellFormed .ackInvalid7 = true ∧
    (∀ n p, Instr.rdAp3 ≠ .rdDp n p ∧ Instr.rdAp3 ≠ .rdAp n p ∧ Instr.rdAp3 ≠ .wrDp n p ∧ Instr.rdAp3 ≠ .wrAp n p) :=
  ⟨by decide, by decide, by decide, fun _ _ => ⟨nofun, nofun, nofun, nofun⟩⟩

theorem witness_EncodeOfDecodeIsTheBytes :
    decode [0xBB#8, 1#8, 2#8, 3#8, 4#8, 5#8] = .ok (.wrAp3 0x04030201#32, [5#8]) ∧ decode [0#8] = .ok (.ackInvalid0, []) := by decide

theorem witness_PayloadGoesWithWritesOnly :
    (asked (.request 0 false .write none) []).eng.phase = .idle ∧
    (asked (.request 0 false .write none) []).caller.commands = .request 0 false .write none :: [] ∧
    (asked (.build 3 true .write none) []).eng.phase = .idle ∧
    (asked (.build 3 true .write none) []).caller.commands = .build 3 true .write none :: [] ∧
    buildRequest 0 true .read (some 1#32) = some (tableRead 0#2 true) ∧
    buildRequest 3 true .write (some 1#32) = some (tableWrite 3#2 true 1#32) := by decide

theorem witness_ParityLaws : (0 : Nat) < 32 ∧ (31 : Nat) < 32 := by decide

/-- Two flipped data bits, and one data bit with the parity bit. -/
theorem witness_AckTellsEvenWeight : (popcount (bitsOf (0x80000001#32).toNat 32) + false.toNat) % 2 = 0 ∧
    (popcount (bitsOf (0x80000000#32).toNat 32) + true.toNat) % 2 = 0 := by decide

/-- AckDecodeTable, ClassificationTables: the two ends of the invalid patterns, and an agreeing and a disagreeing pair. -/
theorem witness_ackPatterns :
    (0b000#3 ≠ 0b001#3 ∧ 0b000#3 ≠ 0b010#3 ∧ 0b000#3 ≠ 0b100#3) ∧ (0b111#3 ≠ 0b001#3 ∧ 0b111#3 ≠ 0b010#3 ∧ 0b111#3 ≠ 0b100#3) ∧
    parity32 0xFFFFFFFF#32 = false ∧ parity32 0x80000000#32 ≠ false := by decide

/-- `Queue(0x1F, 3)` on a buffer that already has one of its three bits, with the two others to come. -/
def l27Waiting : Transport :=
  { l27 with mem := { l27.mem with out := l27.mem.out.take 12 }, progress := { queued := 1 }, answers := [.pending 5 0, .returns] }

/-- A `Queue` that has placed one bit of three, one that has placed none; a `Capture` that has everything to clock, one that has nothing. -/
theorem witness_WaitingChangesNoResult :
    (l27Waiting.answers = .pending 5 0 :: .returns :: [] ∧ l27Waiting.progress.queued ≤ 3 ∧
      l27Waiting.progress.queued ≤ l27Waiting.mem.out.length) ∧
    ({ l27 with answers := [.pending 0 5, .returns] }.answers = .pending 0 5 :: .returns :: [] ∧ l27.progress.queued ≤ 3 ∧
      l27.mem.wf = true ∧ 11 + 3 ≤ l27.mem.out.length ∧ l27.mem.clocked < 11 + 3) ∧
    ¬ ({ l27 with mem := { l27.mem with shifted := l27.mem.out } }.mem.clocked < 11 + 3) := by decide

theorem witness_QueueAppendsLowBitsFirst : l27.progress = Progress.none ∧ l27.answers = .returns :: [.returns, .returns] ∧ (0 : Nat) < 3 ∧ (2 : Nat) < 3 ∧
    13 < l27.mem.out.length ∧ { l27 with answers := [.fails ⟨9⟩ [] 0] }.answers = .fails ⟨9⟩ [] 0 :: [] := by decide

theorem witness_ConsecutiveQueuesAreContiguous :
    queueCall 0xA5 8 { mem := { out := [], shifted := [] }, wire := .loopback, answers := [.returns, .returns] } =
      .returned 0 { mem := { out := bools [1, 0, 1, 0, 0, 1, 0, 1], shifted := [] }, wire := .loopback, answers := [.returns] } ∧
    l27Waiting.progress.queued ≤ 3 ∧ l27Waiting.progress.queued ≤ l27Waiting.mem.out.length ∧
    (∃ t, queueCall 0x1F 3 { l27Waiting with answers := [.returns, .returns] } = .returned 11 t ∧ t.answers = .returns :: []) :=
  ⟨by decide, by decide, by decide, _, rfl, rfl⟩

/-- The capture ends at the last queued position. -/
theorem witness_CaptureReadsWhatWasShiftedIn : l27.mem.wf = true ∧ l27.answers = .returns :: [.returns, .returns] ∧
    11 + 3 ≤ l27.mem.out.length := by decide

theorem witness_CaptureIsIdempotent : l27.mem.wf = true ∧
    captureCall 8 3 l27 = .returned 3 { l27 with mem := { l27.mem with shifted := l27.mem.out }, answers := .returns :: [.returns] } := by
  decide

/-- The capture ends one position after the last queued one. -/
theorem witness_UnqueuedCaptureFails : l27.answers = .returns :: [.returns, .returns] ∧ l27.mem.out.length < 12 + 3 := by decide

theorem witness_LoopbackReadsBackTheQueuedValue : l27.progress = Progress.none ∧ l27.mem.wf = true ∧ l27.wire = .loopback ∧
    l27.answers = .returns :: .returns :: [.returns] := by decide

theorem witness_FailedCallLeavesBoundedTraces :
    { l27 with answers := [.fails ⟨9⟩ [true] 2] }.mem.wf = true ∧
    { l27 with answers := [.fails ⟨9⟩ [true] 2] }.answers = .fails ⟨9⟩ [true] 2 :: [] := by decide

/-- Every phase with a transport call has a state of the invariant, for both directions. -/
theorem mid_inv (r : Request) (hr : r = tableRead 0#2 false ∨ r = tableWrite 3#2 true 0xDEADBEEF#32) (p : Phase) (n : Nat)
    (h : (p, n) = (.qHdr, 0) ∨ (p, n) = (.qAck, 8) ∨ (p, n) = (.qData, 11) ∨ (p, n) = (.qPar, 43) ∨ (p, n) = (.cAck, 44) ∨
      (p, n) = (.cData, 44) ∨ (p, n) = (.cPar, 44)) (as : List Answer) : (mid r p n as).Inv := by
  refine ⟨by simp [mid, Memory.wf, State.reset], fun q hq => ?_, ?_⟩
  · simp only [mid, Option.some.injEq] at hq
    subst hq
    rcases hr with rfl | rfl <;> decide
  · have hlen : (frameBits r).length = 44 := by rcases hr with rfl | rfl <;> decide
    simp only [Prod.mk.injEq] at h
    rcases h with ⟨rfl, rfl⟩ | ⟨rfl, rfl⟩ | ⟨rfl, rfl⟩ | ⟨rfl, rfl⟩ | ⟨rfl, rfl⟩ | ⟨rfl, rfl⟩ | ⟨rfl, rfl⟩ <;>
      simp [mid, State.PhaseInv, State.ProgressInv, Phase.captures, Progress.none, State.reset, hlen]

/-- A Read's Q_DATA call that has placed five of its 32 positions and has not returned. -/
def midData : State :=
  { mid (tableRead 0#2 false) .qData 16 [.returns] with
    tr := { (mid (tableRead 0#2 false) .qData 16 [.returns]).tr with progress := { queued := 5 } } }

theorem midData_inv : midData.Inv := by
  refine ⟨by decide, fun q hq => ?_, ?_, by decide, by simp [State.ProgressInv, midData, mid, Phase.queueWidth]⟩
  · simp only [midData, mid, Option.some.injEq] at hq
    subst hq
    decide
  · simp [State.PhaseInv, midData, mid, State.reset, frameBits, frameTail, tableRead]

/-- PhasesFollowTheTable: the first call answered, failing and unanswered; and a phase without a call. -/
theorem witness_PhasesFollowTheTable :
    (mid (tableRead 0#2 false) .cAck 44 [.returns]).req = some (tableRead 0#2 false) ∧
    (∃ s', tick (mid (tableRead 0#2 false) .cAck 44 [.returns]) = .next s') ∧
    (∃ s', tick (mid (tableWrite 3#2 true 0#32) .cAck 44 [.fails ⟨9⟩ [] 0]) = .next s') ∧
    (∃ s', tick (mid (tableWrite 3#2 true 0#32) .qPar 43 []) = .next s') ∧
    (∃ s', tick (latched 1#3 0#32 false) = .next s') := ⟨rfl, ⟨_, rfl⟩, ⟨_, rfl⟩, ⟨_, rfl⟩, ⟨_, rfl⟩⟩

/-- PhaseFrame: a queue phase, a capture phase, one without a call, and a queue phase that fails. -/
theorem witness_PhaseFrame :
    (∃ s', tick (mid (tableRead 0#2 false) .qData 11 [.returns]) = .next s') ∧ Phase.captures .qData = false ∧
    (∃ s', tick (mid (tableRead 0#2 false) .cPar 44 [.returns]) = .next s') ∧ Phase.queueWidth .cPar = 0 ∧
    (mid (tableRead 0#2 false) .cPar 44 [.returns]).tr.mem.wf = true ∧
    (∃ s', tick (latched 1#3 0#32 false) = .next s') ∧ (latched 1#3 0#32 false).eng.phase.calls = false ∧
    (∃ s', tick (mid (tableWrite 3#2 true 0#32) .qAck 8 [.fails ⟨9⟩ [true] 0]) = .next s' ∧ s'.eng.phase = .failed) ∧
    Phase.calls .qAck = true := ⟨⟨_, rfl⟩, rfl, ⟨_, rfl⟩, rfl, by decide, ⟨_, rfl⟩, rfl, ⟨_, rfl, rfl⟩, rfl⟩

/-- One clause's phase each. -/
theorem witness_PhaseCallsFillTheirLatches :
    ∀ p n, (p, n) = (Phase.qHdr, 0) ∨ (p, n) = (.qAck, 8) ∨ (p, n) = (.qData, 11) ∨ (p, n) = (.qPar, 43) ∨ (p, n) = (.cAck, 44) ∨
        (p, n) = (.cData, 44) ∨ (p, n) = (.cPar, 44) →
      (mid (tableRead 0#2 false) p n [.returns]).Inv ∧ (mid (tableRead 0#2 false) p n [.returns]).req = some (tableRead 0#2 false) ∧
      (mid (tableRead 0#2 false) p n [.returns]).tr.answers = .returns :: [] ∧
      (mid (tableRead 0#2 false) p n [.returns]).eng.phase = p ∧ p.calls = true := by
  intro p n h
  refine ⟨mid_inv _ (.inl rfl) p n h _, rfl, rfl, rfl, ?_⟩
  rcases h with h | h | h | h | h | h | h <;> simp only [Prod.mk.injEq] at h <;> rw [h.1] <;> rfl

/-- PhaseCallsFillTheirLatches of a call that has waited. -/
theorem witness_PhaseCallsFillTheirLatches_waited : midData.Inv ∧ midData.req = some (tableRead 0#2 false) ∧
    midData.tr.answers = .returns :: [] ∧ midData.eng.phase.calls = true ∧ midData.tr.progress.queued = 5 :=
  ⟨midData_inv, rfl, rfl, rfl, rfl⟩

theorem witness_FailedCallEntersFailed :
    (mid (tableWrite 3#2 true 0xDEADBEEF#32) .cAck 44 [.fails ⟨9⟩ [] 44]).Inv ∧
    (mid (tableWrite 3#2 true 0xDEADBEEF#32) .cAck 44 [.fails ⟨9⟩ [] 44]).eng.phase.calls = true ∧
    (mid (tableWrite 3#2 true 0xDEADBEEF#32) .cAck 44 [.fails ⟨9⟩ [] 44]).tr.answers = .fails ⟨9⟩ [] 44 :: [] :=
  ⟨mid_inv _ (.inr rfl) _ _ (by simp) _, rfl, rfl⟩

/-- No answer at all; an answer that says the call has not returned and has clocked some positions, or placed some; and a call that has
placed some before. -/
theorem witness_PendingCallHoldsThePhase :
    ((mid (tableRead 0#2 false) .qHdr 0 []).Inv ∧ (mid (tableRead 0#2 false) .qHdr 0 []).req = some (tableRead 0#2 false) ∧
      (mid (tableRead 0#2 false) .qHdr 0 []).eng.phase.calls = true ∧ (mid (tableRead 0#2 false) .qHdr 0 []).tr.answers = []) ∧
    ((mid (tableRead 0#2 false) .cPar 44 [.pending 0 9]).Inv ∧
      (mid (tableRead 0#2 false) .cPar 44 [.pending 0 9]).eng.phase.captures = true ∧
      (mid (tableRead 0#2 false) .cPar 44 [.pending 0 9]).eng.ackOff = some 8 ∧
      (mid (tableRead 0#2 false) .cPar 44 [.pending 0 9]).tr.answers = .pending 0 9 :: []) ∧
    ((mid (tableRead 0#2 false) .qPar 43 [.pending 1 0]).Inv ∧
      (mid (tableRead 0#2 false) .qPar 43 [.pending 1 0]).eng.phase.captures = false ∧
      (mid (tableRead 0#2 false) .qPar 43 [.pending 1 0]).tr.answers = .pending 1 0 :: []) ∧
    (midData.Inv ∧ midData.tr.progress.queued = 5) :=
  ⟨⟨mid_inv _ (.inl rfl) _ _ (by simp) _, rfl, rfl, rfl⟩, ⟨mid_inv _ (.inl rfl) _ _ (by simp) _, rfl, rfl, rfl⟩,
    ⟨mid_inv _ (.inl rfl) _ _ (by simp) _, rfl, rfl⟩, midData_inv, rfl⟩

/-- ReadRequestCompletes and EachTransactionStartsFresh: an exact row and a generic row. -/
theorem witness_ReadRequestCompletes :
    readTarget .rdAp3 = some (3#2, true) ∧ readTarget (.rdDp 256 none) = some (0#2, false) ∧ (ready 1 3 1).eng.phase = .idle ∧
    (ready 1 3 1).tr.mem.wf = true ∧ (ready 1 3 1).tr.answers = List.replicate 7 .returns ++ [] := by decide

theorem witness_WriteRequestCompletes :
    writeTarget (.wrDp0 0x80000000#32) = some (0#2, false, 0x80000000#32) ∧
    writeTarget (.wrAp 7 (some 0#32)) = some (3#2, true, 0#32) ∧ (ready 1 0 0).eng.phase = .idle ∧
    (ready 1 0 0).tr.mem.wf = true ∧ (ready 1 0 0).tr.answers = List.replicate 5 .returns ++ [.returns, .returns] := by decide

/-- Both directions. -/
theorem witness_AckPatternCompletes :
    Instr.ackPattern .ackInvalid0 = some 0#3 ∧ Instr.ackPattern .ackInvalid7 = some 7#3 ∧
    (latched 1#3 5#32 true).eng.phase = .classify ∧ (latched 1#3 5#32 true).req = some (tableRead 0#2 false) ∧
    (tableRead 0#2 false).dir = .read ∧ (latched 1#3 5#32 true).eng.data = some 5#32 ∧ (latched 1#3 5#32 true).eng.par = some true ∧
    { latched 1#3 5#32 true with req := some (tableWrite 0#2 false 1#32) }.req = some (tableWrite 0#2 false 1#32) ∧
    (tableWrite 0#2 false 1#32).dir = .write := by decide

/-- RequestFrame and CallerCannotTouchARequest: a request that ends, and one that waits. -/
theorem witness_RequestFrame :
    requestOf .rdDp0 = some (tableRead 0#2 false) ∧ (∃ s', exec .rdDp0 (ready 1 3 0) = .next s') ∧
    requestOf (.wrAp 5 (some 7#32)) = some (tableWrite 1#2 true 7#32) ∧
    (∃ s', exec (.wrAp 5 (some 7#32)) State.reset = .next s') := ⟨rfl, ⟨_, rfl⟩, rfl, ⟨_, rfl⟩⟩

/-- The first and the last call of each direction. -/
theorem witness_FirstFailureEndsTheRequest :
    requestOf .rdAp2 = some (tableRead 2#2 true) ∧ requestOf (.wrAp1 9#32) = some (tableWrite 1#2 true 9#32) ∧
    State.reset.eng.phase = .idle ∧ State.reset.tr.mem.wf = true ∧
    0 < callsOf (tableRead 2#2 true).dir ∧ 6 < callsOf (tableRead 2#2 true).dir ∧ 4 < callsOf (tableWrite 1#2 true 9#32).dir ∧
    [.fails ⟨9⟩ [] 0] = List.replicate 0 .returns ++ Answer.fails ⟨9⟩ [] 0 :: [] ∧
    [.returns, .returns, .returns, .returns, .returns, .returns, .fails ⟨9⟩ [] 0] =
      List.replicate 6 .returns ++ Answer.fails ⟨9⟩ [] 0 :: [] ∧
    [.returns, .returns, .returns, .returns, .fails ⟨9⟩ [] 0] = List.replicate 4 .returns ++ Answer.fails ⟨9⟩ [] 0 :: [] := by decide

/-- The first and the last call, with an answer that says it has not returned and with none at all. -/
theorem witness_UnansweredCallHoldsTheRequest :
    requestOf .rdAp2 = some (tableRead 2#2 true) ∧ State.reset.eng.phase = .idle ∧ State.reset.tr.mem.wf = true ∧
    0 < callsOf (tableRead 2#2 true).dir ∧ 6 < callsOf (tableRead 2#2 true).dir ∧
    (∃ rest, [Answer.pending 5 0] = .pending 5 0 :: rest) ∧ State.reset.tr.answers = List.replicate 0 .returns ++ [] ∧
    [.returns, .returns, .returns, .returns, .pending 0 20] = List.replicate 4 .returns ++ [Answer.pending 0 20] ∧
    [.returns, .returns, .returns, .returns, .returns, .returns] = List.replicate 6 Answer.returns ++ [] :=
  ⟨rfl, rfl, rfl, by decide, by decide, ⟨_, rfl⟩, rfl, rfl, rfl⟩

/-- A failing call, and each kind of ack in a run that ends. -/
theorem witness_OutcomePriority :
    requestOf .rdAp2 = some (tableRead 2#2 true) ∧ p5.eng.phase = .idle ∧ 2 < callsOf (tableRead 2#2 true).dir ∧
    p5.tr.answers = List.replicate 2 .returns ++ .fails ⟨9⟩ [] 0 :: [.returns] ∧
    (ready 1 3 0).tr.answers = List.replicate (callsOf (tableRead 2#2 true).dir) .returns ++ [] ∧
    requestOf (.wrAp1 9#32) = some (tableWrite 1#2 true 9#32) ∧
    (ready 7 0 0).tr.answers = List.replicate (callsOf (tableWrite 1#2 true 9#32).dir) .returns ++ [.returns, .returns] := by decide

/-- Two IDLE states that differ in REQ and in the Response. -/
theorem witness_EachTransactionStartsFresh :
    requestOf .rdDp0 = some (tableRead 0#2 false) ∧ (ready 1 3 0).eng.phase = .idle ∧
    { ready 1 3 0 with req := some (tableWrite 1#2 true 7#32), response := some ⟨.fault, none⟩ }.eng.phase = .idle ∧
    (ready 1 3 0).tr = { ready 1 3 0 with req := some (tableWrite 1#2 true 7#32), response := some ⟨.fault, none⟩ }.tr ∧
    (ready 1 3 0).caller = { ready 1 3 0 with req := some (tableWrite 1#2 true 7#32), response := some ⟨.fault, none⟩ }.caller := by
  decide

/-- All three ends of `send`. -/
theorem witness_PhaseMachineIsSend :
    requestOf .rdDp0 = some (tableRead 0#2 false) ∧ (ready 1 3 0).eng.phase = .idle ∧
    (match send 165#8 none (ready 1 3 0).tr with
      | .response _ _ => true
      | .transportError _ _ => false
      | .notReturned _ => false) = true ∧
    (match send 165#8 none { State.reset.tr with answers := [.fails ⟨9⟩ [] 0] } with
      | .response _ _ => false
      | .transportError _ _ => true
      | .notReturned _ => false) = true ∧
    (match send 165#8 none State.reset.tr with
      | .response _ _ => false
      | .transportError _ _ => false
      | .notReturned _ => true) = true := by decide

theorem witness_WriteReadsBackOnLoopback :
    writeTarget (.wrDp0 0x0BB11477#32) = some (0#2, false, 0x0BB11477#32) ∧
    (asked .take (List.replicate 7 .returns)).eng.phase = .idle ∧ (asked .take (List.replicate 7 .returns)).tr.mem.wf = true ∧
    (asked .take (List.replicate 7 .returns)).tr.wire = .loopback ∧
    (asked .take (List.replicate 7 .returns)).tr.answers = List.replicate 7 .returns ++ [] := by decide

/-- One command for each clause. -/
theorem witness_StepRunsTheRequestHandedOver :
    (asked (.word [0xA5#8]) []).eng.phase = .idle ∧ (asked (.word [0xA5#8]) []).caller.commands = .word [0xA5#8] :: [] ∧
    decode [0xA5#8] = .ok (.rdDp0, []) ∧ Instr.ackPattern .rdDp0 = none ∧
    (asked (.request 4 false .read none) []).caller.commands = .request 4 false .read none :: [] ∧
    (asked (.request 0 true .read none) []).caller.commands = .request 0 true .read none :: [] ∧
    (asked (.request 3 false .write (some 1#32)) []).caller.commands = .request 3 false .write (some 1#32) :: [] ∧
    (asked (.request 3 true .write none) []).caller.commands = .request 3 true .write none :: [] := by decide

/-- A request in CLASSIFY and in FAILED, an ack pattern in IDLE. -/
theorem witness_OutOfPhaseIsRefused :
    requestOf (.wrAp 7 (some 0#32)) = some (tableWrite 3#2 true 0#32) ∧ (latched 1#3 0#32 false).eng.phase ≠ .idle ∧
    { State.reset with eng := { Engine.empty with phase := .failed, err := some ⟨9⟩ } }.eng.phase ≠ .idle ∧
    Instr.ackPattern .ackInvalid0 = some 0#3 ∧ State.reset.eng.phase ≠ .classify := by decide

/-- No byte; a byte that is no header, an ack pattern and a wrong parity; a Write header with three bytes; `send`; a take. -/
theorem witness_HandOffRefusals :
    (asked (.word []) []).eng.phase = .idle ∧ (asked (.word []) []).caller.commands = .word [] :: [] ∧
    (asked (.word [0x85#8]) []).caller.commands = .word (0x85#8 :: []) :: [] ∧
    (∀ idx ap, 0x85#8 ≠ headerTable .read ap idx ∧ 0x85#8 ≠ headerTable .write ap idx ∧
      7#8 ≠ headerTable .read ap idx ∧ 7#8 ≠ headerTable .write ap idx) ∧
    (asked (.word [0xBB#8, 1#8, 2#8, 3#8]) []).caller.commands = .word (0xBB#8 :: [1#8, 2#8, 3#8]) :: [] ∧
    0xBB#8 = headerTable .write true 3#2 ∧ [1#8, 2#8, 3#8].length < 4 ∧
    (asked .send []).caller.commands = .send :: [] ∧ (asked .send []).req = none ∧
    (asked .take []).caller.commands = .take :: [] := by decide

/-- Each call with each of its three ends. -/
theorem witness_CallerCallsTheTransport :
    (asked (.queue 5 3) [.returns]).eng.phase = .idle ∧ (asked (.queue 5 3) []).caller.commands = .queue 5 3 :: [] ∧
    (asked (.capture 0 0) []).caller.commands = .capture 0 0 :: [] ∧
    (∃ v t, queueCall 5 3 (asked (.queue 5 3) [.returns]).tr = .returned v t) ∧
    (∃ t, queueCall 5 3 (asked (.queue 5 3) [.fails ⟨9⟩ [] 0]).tr = .failed ⟨9⟩ t) ∧
    (∃ t, queueCall 5 3 (asked (.queue 5 3) []).tr = .waiting t) ∧
    (∃ v t, captureCall 0 0 (asked (.capture 0 0) [.returns]).tr = .returned v t) ∧
    (∃ t, captureCall 0 0 (asked (.capture 0 0) [.fails ⟨9⟩ [] 0]).tr = .failed ⟨9⟩ t) ∧
    (∃ t, captureCall 0 0 (asked (.capture 0 0) []).tr = .waiting t) :=
  ⟨rfl, rfl, rfl, ⟨_, _, rfl⟩, ⟨_, rfl⟩, ⟨_, rfl⟩, ⟨_, _, rfl⟩, ⟨_, rfl⟩, ⟨_, rfl⟩⟩

theorem witness_StepRunsTheLatchedAckPattern :
    (latched 0#3 0#32 false).eng.phase = .classify ∧ (latched 0#3 0#32 false).eng.ack = some 0#3 ∧
    (latched 7#3 0#32 false).eng.ack = some 7#3 ∧ (latched 0#3 0#32 false).caller.commands.head? ≠ some .reset := by decide

/-- A held Request, an instruction that stands for it (exact and generic), and its five calls answered. -/
theorem witness_ResendingQueuesTheSameFrame :
    requestOf (.wrAp1 0xDEADBEEF#32) = some (tableWrite 1#2 true 0xDEADBEEF#32) ∧
    requestOf (.wrAp 5 (some 0xDEADBEEF#32)) = some (tableWrite 1#2 true 0xDEADBEEF#32) ∧
    (asked .send (List.replicate 5 .returns)).eng.phase = .idle ∧ (tableWrite 1#2 true 0xDEADBEEF#32).built = true ∧
    { asked .send (List.replicate 5 .returns) with req := some (tableWrite 1#2 true 0xDEADBEEF#32) }.req =
      some (tableWrite 1#2 true 0xDEADBEEF#32) ∧
    (asked .send (List.replicate 5 .returns)).tr.mem.wf = true ∧
    (asked .send (List.replicate 5 .returns)).caller.commands = .send :: [] ∧
    (asked .send (List.replicate 5 .returns)).tr.answers =
      List.replicate (callsOf (tableWrite 1#2 true 0xDEADBEEF#32).dir) .returns ++ [] := by decide

theorem witness_BuildOnlyLatchesTheRequest :
    (asked (.build 5 true .write (some 1#32)) []).eng.phase = .idle ∧
    (asked (.build 5 true .write (some 1#32)) []).caller.commands = .build 5 true .write (some 1#32) :: [] ∧
    buildRequest 5 true .write (some 1#32) = some (tableWrite 1#2 true 1#32) := by decide

theorem witness_NothingInterruptsATransaction :
    (mid (tableRead 0#2 false) .qAck 8 [.returns]).eng.phase.calls = true ∧
    (mid (tableRead 0#2 false) .qAck 8 [.returns]).caller.commands.head? ≠ some .reset ∧
    [Command.take].head? ≠ some .reset ∧ (∃ s', step (mid (tableRead 0#2 false) .qAck 8 [.returns]) = .next s') :=
  ⟨rfl, by decide, by decide, ⟨_, rfl⟩⟩

/-- Nobody takes the Response; the caller takes it; the caller goes on to another command. -/
theorem witness_TakingTheResponseReturnsToIdle :
    let s : State := { State.reset with eng := { Engine.empty with phase := .done }, response := some ⟨.ack, none⟩ }
    let s' : State := { s with caller := { commands := [.take], received := [] } }
    s.eng.phase = .done ∧ s.response = some ⟨.ack, none⟩ ∧ s.caller.commands = [] ∧
    s'.eng.phase = .done ∧ s'.response = some ⟨.ack, none⟩ ∧ s'.caller.commands = .take :: [] ∧
    { s with caller := { commands := [.send, .take], received := [] } }.caller.commands = .send :: [.take] ∧
    Command.send ≠ .take ∧ Command.send ≠ .reset := by decide

/-- The caller takes the failure; the caller does something else. -/
theorem witness_FailureIsReportedUnchanged :
    let s : State := { State.reset with eng := { Engine.empty with phase := .failed, err := some ⟨9⟩ } }
    let s' : State := { s with caller := { commands := [.take], received := [] } }
    s.eng.phase = .failed ∧ s.eng.err = some ⟨9⟩ ∧ s.caller.commands.head? ≠ some .take ∧ s.caller.commands.head? ≠ some .reset ∧
    s'.eng.phase = .failed ∧ s'.eng.err = some ⟨9⟩ ∧ s'.caller.commands = .take :: [] := by decide

/-- An IDLE state that is not the state after reset, with no coming command. -/
theorem witness_ResetHoldsNoValues : (ready 1 3 0).eng.phase = .idle ∧ (ready 1 3 0).caller.commands = [] ∧
    { ready 1 3 0 with req := some (tableRead 3#2 true) } ≠ State.reset := by decide

theorem witness_ResetInputClearsTheBlockOnly :
    { mid (tableRead 0#2 false) .qData 11 [] with caller := { commands := [.reset], received := [] } }.caller.commands = .reset :: [] := by
  decide

/-- No position of the frame, one of them and all of them; no bit of the header and all of them. -/
theorem witness_ResetFindsNonePartOrAllOfTheFrame :
    requestOf .rdDp0 = some (tableRead 0#2 false) ∧ (asked .reset []).eng.phase = .idle ∧ (asked .reset []).tr.mem.wf = true ∧
    (asked .reset []).caller.commands = .reset :: [] ∧ (asked .reset []).tr.mem.clocked + 0 ≤ (asked .reset []).tr.mem.out.length + 44 ∧
    (asked .reset []).tr.mem.clocked + 44 ≤ (asked .reset []).tr.mem.out.length + 44 ∧ 0 ≤ 8 ∧ 8 ≤ 8 := by decide

/-- EveryStepKeepsTheInvariant and NoStepReadsAnUnwrittenLatch: in the middle of a transaction, a next state is answered. -/
theorem witness_EveryStepKeepsTheInvariant :
    (mid (tableRead 0#2 false) .cAck 44 [.returns, .returns, .returns]).Inv ∧
    (∃ s', step (mid (tableRead 0#2 false) .cAck 44 [.returns, .returns, .returns]) = .next s') :=
  ⟨mid_inv _ (.inl rfl) _ _ (by simp) _, ⟨_, rfl⟩⟩

theorem witness_FailuresComeFromTheTransport :
    (mid (tableRead 0#2 false) .cData 44 [.fails ⟨9⟩ [] 0]).Inv ∧
    (mid (tableRead 0#2 false) .cData 44 [.fails ⟨9⟩ [] 0]).eng.phase ≠ .failed ∧
    (∃ s', step (mid (tableRead 0#2 false) .cData 44 [.fails ⟨9⟩ [] 0]) = .next s' ∧ s'.eng.phase = .failed) :=
  ⟨mid_inv _ (.inl rfl) _ _ (by simp) _, by decide, ⟨_, rfl, rfl⟩⟩

/-- The first and the last phase with a call; a phase whose call returns, fails and has not returned. -/
theorem witness_AnsweredTransactionsReachDone :
    ((mid (tableRead 0#2 false) .qHdr 0 (List.replicate 7 .returns)).Inv ∧
      (mid (tableRead 0#2 false) .qHdr 0 (List.replicate 7 .returns)).eng.phase.calls = true ∧
      (mid (tableRead 0#2 false) .qHdr 0 (List.replicate 7 .returns)).caller.commands.head? ≠ some .reset ∧
      (mid (tableRead 0#2 false) .qHdr 0 (List.replicate 7 .returns)).req = some (tableRead 0#2 false) ∧
      (mid (tableRead 0#2 false) .qHdr 0 (List.replicate 7 .returns)).tr.answers = List.replicate 7 .returns ++ []) ∧
    ((mid (tableRead 0#2 false) .cPar 44 (List.replicate 8 .returns)).Inv ∧
      (mid (tableRead 0#2 false) .cPar 44 (List.replicate 8 .returns)).eng.phase.calls = true ∧
      (mid (tableRead 0#2 false) .cPar 44 (List.replicate 8 .returns)).tr.answers = List.replicate 7 .returns ++ [.returns]) ∧
    ((mid (tableWrite 3#2 true 0xDEADBEEF#32) .cAck 44 (List.replicate 7 .returns)).Inv ∧
      (mid (tableWrite 3#2 true 0xDEADBEEF#32) .cAck 44 (List.replicate 7 .returns)).req =
        some (tableWrite 3#2 true 0xDEADBEEF#32)) ∧
    (∃ s₁, tick (mid (tableRead 0#2 false) .qHdr 0 [.returns]) = .next s₁ ∧ s₁.eng.phase = .qAck) ∧
    (∃ s₁, tick (mid (tableRead 0#2 false) .qHdr 0 [.fails ⟨9⟩ [] 0]) = .next s₁ ∧ s₁.eng.phase = .failed) ∧
    (∃ s₁, tick (mid (tableRead 0#2 false) .qHdr 0 [.pending 3 0]) = .next s₁ ∧ s₁.eng.phase = .qHdr) :=
  ⟨⟨mid_inv _ (.inl rfl) _ _ (by simp) _, rfl, by decide, rfl, rfl⟩, ⟨mid_inv _ (.inl rfl) _ _ (by simp) _, rfl, rfl⟩,
    ⟨mid_inv _ (.inr rfl) _ _ (by simp) _, rfl⟩, ⟨_, rfl, rfl⟩, ⟨_, rfl, rfl⟩, ⟨_, rfl, rfl⟩⟩

end Sys2Proof.Tests
end

section
/-! PROOFS. The state family (10_state.md R20 to R38): what reset leaves, how a step finds what it runs, that a transaction starts
fresh, and that the invariant of a run holds at reset and through every step. -/

namespace Sys2Proof.Machine

/-! How a step finds what it runs (60_exceptions.md R214, 70_reset_and_hazards.md R231). -/

/-- The reset input, or the step of the engine's phase. -/
theorem step_cases (s : State) :
    (∃ rest, s.caller.commands = .reset :: rest ∧ step s = .next (s.setCommands rest).resetBlock) ∨ step s = phaseStep s := by
  unfold step runStep
  split
  case h_1 rest hc => exact .inl ⟨rest, hc, rfl⟩
  case h_2 => exact .inr rfl

/-- In IDLE the reset input is one of the commands an IDLE engine looks at. -/
theorem step_of_idle (s : State) (hp : s.eng.phase = .idle) : step s = idleStep s := by
  rcases step_cases s with ⟨rest, hc, h⟩ | h
  · rw [h, idleStep, hc]
  · rw [h, phaseStep, hp]

theorem exec_ackInstr (a : AckBits) (s : State) : exec (ackInstr a) s = ackRow a s := by
  have hall : a = 0#3 ∨ a = 1#3 ∨ a = 2#3 ∨ a = 3#3 ∨ a = 4#3 ∨ a = 5#3 ∨ a = 6#3 ∨ a = 7#3 := by
    revert a; decide
  rcases hall with rfl | rfl | rfl | rfl | rfl | rfl | rfl | rfl <;> rfl

/-- The latched pattern's instruction is the engine's own CLASSIFY (R156, R184). -/
theorem classifyStep_eq_tick (s : State) (hp : s.eng.phase = .classify) : classifyStep s = tick s := by
  rw [classifyStep, tick, hp]
  cases ha : s.eng.ack with
  | none => simp [phaseClassify, ha]
  | some a => simp [phaseClassify, ha, exec_ackInstr, ackRow, hp]

/-- Settles O42: `step` of an IDLE engine is `idleStep`, whose arm for each form of the hand-off is `exec` of its instruction. -/
theorem stepRunsTheRequestHandedOver : Obligations.StepRunsTheRequestHandedOver := by
  intro s hp
  rw [step_of_idle s hp]
  refine ⟨fun bytes cs i tail hc hd ha => ?_, fun n p cs hc => ?_, fun n p cs hc => ?_, fun n p cs hc => ?_, fun n p cs hc => ?_⟩
  · rw [idleStep, hc]
    simp only [runWord, hd, ha]
    rfl
  all_goals
    rw [idleStep, hc]
    rfl

/-- Settles O49: the fields of the reset state, and an IDLE engine without a coming command. -/
theorem resetHoldsNoValues : Obligations.ResetHoldsNoValues := by
  have quiet : ∀ s : State, s.eng.phase = .idle → s.caller.commands = [] → step s = .next s := by
    intro s hp hc
    rw [step_of_idle s hp, idleStep, hc]
  exact ⟨rfl, rfl, rfl, rfl, rfl, rfl, rfl, rfl, quiet _ rfl rfl, quiet⟩

/-! A transaction starts fresh (R37, R145). -/

/-- What `begin` leaves depends on REQ, the transport and the caller alone. -/
theorem State.begin_congr (s₁ s₂ : State) (hr : s₁.req = s₂.req) (ht : s₁.tr = s₂.tr) (hc : s₁.caller = s₂.caller) :
    s₁.begin = s₂.begin := by
  simp only [State.begin, hr, ht, hc]

/-- Settles O38: both runs are the `send` of the same Request, and `begin` un-writes what they could differ in. -/
theorem eachTransactionStartsFresh : Obligations.EachTransactionStartsFresh := by
  intro i r s₁ s₂ hi hp₁ hp₂ ht hc
  rw [exec_of_requestOf s₁ i r hi hp₁, exec_of_requestOf s₂ i r hi hp₂, sendBuilt, sendBuilt,
    State.begin_congr { s₁ with req := some r } { s₂ with req := some r } rfl ht hc]

/-! The invariant where no call is under way, and at reset (R38, R230). -/

theorem State.progressInv_of_none (s : State) (h : s.tr.progress = Progress.none) : s.ProgressInv := by
  unfold State.ProgressInv
  split
  · split <;> simp [h]
  · simp [h]

/-- With no call under way, the invariant is the buffer's form, a built REQ and the latches of the phase. -/
theorem State.inv_of_none (s : State) (hw : s.tr.mem.wf = true) (hb : ∀ r, s.req = some r → r.built = true) (hp : s.PhaseInv)
    (h : s.tr.progress = Progress.none) : s.Inv :=
  ⟨hw, hb, hp, by simp [h], s.progressInv_of_none h⟩

theorem State.phaseInv_of_empty (s : State) (he : s.eng = Engine.empty) (hr : s.response = none) : s.PhaseInv := by
  simp [State.PhaseInv, he, hr]

/-- Settles O51: nothing is under way, nothing is queued, and the latches are those of IDLE. -/
theorem resetMeetsTheInvariant : Obligations.ResetMeetsTheInvariant :=
  State.reset.inv_of_none rfl (fun _ h => nomatch h) (State.phaseInv_of_empty _ rfl rfl) rfl

/-! A phase's transport call keeps the invariant (R143, R206, R246). -/

/-- A waiting `Queue` that has placed no more than its width still has not, and the buffer has grown by what it has placed since. -/
theorem Transport.queueSome_placed (v n q : Nat) (t : Transport) (h : t.progress.queued ≤ n) :
    (t.queueSome (bitsOf v n) q).mem.out.length + t.progress.queued =
      t.mem.out.length + (t.queueSome (bitsOf v n) q).progress.queued ∧
    t.mem.out.length ≤ (t.queueSome (bitsOf v n) q).mem.out.length ∧ (t.queueSome (bitsOf v n) q).progress.queued ≤ n := by
  simp only [Transport.queueSome_out, Transport.queueSome_queued, List.length_append, List.length_take, List.length_drop,
    bitsOf_length]
  omega

/-- Of the transport, a phase relies only on how far the buffer reaches beyond what the call under way has placed. -/
theorem State.PhaseInv.setTr (s : State) (t : Transport) (h : s.PhaseInv)
    (hout : t.mem.out.length + s.tr.progress.queued = s.tr.mem.out.length + t.progress.queued)
    (hlen : s.tr.mem.out.length ≤ t.mem.out.length) : (s.setTr t).PhaseInv := by
  cases hp : s.eng.phase <;>
    simp only [State.PhaseInv, State.setTr_eng, State.setTr_req, State.setTr_response, State.setTr_tr, hp] at h ⊢
  case idle | qHdr | qAck | classify | done | failed => exact h
  case qData | qPar | cAck =>
    obtain ⟨hr, hn, off, ho, hl⟩ := h
    exact ⟨hr, hn, off, ho, by omega⟩
  case cData =>
    obtain ⟨hr, hn, ha, off, ho, hl⟩ := h
    exact ⟨hr, hn, ha, off, ho, by omega⟩
  case cPar =>
    obtain ⟨hr, hn, ha, hd, off, ho, hl⟩ := h
    exact ⟨hr, hn, ha, hd, off, ho, by omega⟩

/-- A call that is waiting keeps the invariant if it has done no more than is its to do. -/
theorem State.Inv.setTr {s : State} (h : s.Inv) (t : Transport) (hw : t.mem.wf = true)
    (hout : t.mem.out.length + s.tr.progress.queued = s.tr.mem.out.length + t.progress.queued)
    (hlen : s.tr.mem.out.length ≤ t.mem.out.length) (hpr : (s.setTr t).ProgressInv) : (s.setTr t).Inv := by
  obtain ⟨-, hb, hp, hq, -⟩ := h
  exact ⟨hw, hb, hp.setTr s t hout hlen, by simp only [State.setTr_tr]; omega, hpr⟩

/-- A phase that queues is a phase of the engine's own and does not capture (R143). -/
theorem Phase.of_queueWidth_pos (p : Phase) (h : 0 < p.queueWidth) : p ≠ .idle ∧ p.captures = false := by
  cases p <;> simp [Phase.queueWidth, Phase.captures] at h ⊢

/-- Away from IDLE, what the call under way can have done is set by the phase alone. -/
theorem State.progressInv_iff (s : State) (hp : s.eng.phase ≠ .idle) :
    s.ProgressInv ↔ s.tr.progress.queued ≤ s.eng.phase.queueWidth ∧
      (s.eng.phase.captures = false → s.tr.progress.clocking = false) := by
  cases h : s.eng.phase <;> simp [State.ProgressInv, h] at hp ⊢

/-- TAKING A TRANSPORT FAILURE is sound wherever the call is over. -/
theorem State.failTransaction_inv (s : State) (e : TransportFailure) (hw : s.tr.mem.wf = true)
    (hb : ∀ r, s.req = some r → r.built = true) (h : s.tr.progress = Progress.none) : (s.failTransaction e).Inv :=
  State.inv_of_none _ hw hb (by simp [State.PhaseInv]) h

/-- A queue phase keeps the invariant if what it goes on to when its call returns meets it. Its positions then end the buffer, from
the offset returned on. -/
theorem State.Inv.afterQueue {s : State} (h : s.Inv) (v n : Nat) (go : Nat → State → State)
    (hn : s.eng.phase.queueWidth = n) (hpos : 0 < n)
    (hgo : ∀ off t, t.mem.wf = true → off + s.tr.progress.queued = s.tr.mem.out.length → t.mem.out.length = off + n →
      t.progress = Progress.none → (go off (s.setTr t)).Inv) :
    (s.afterCall (queueCall v n s.tr) go).Inv := by
  obtain ⟨hi, hcap⟩ := Phase.of_queueWidth_pos s.eng.phase (hn.symm ▸ hpos)
  obtain ⟨hw, hb, -, hq, hpr⟩ := id h
  obtain ⟨hle, hck⟩ := (s.progressInv_iff hi).mp hpr
  have hw' := (queueCall_grew v n s.tr).wf hw
  rcases queueCall_cases v n s.tr with ⟨rest, -, hc⟩ | ⟨e, g, c, rest, -, hc⟩ | ⟨q, c, -, hc⟩ <;> rw [hc] at hw' ⊢
  · refine hgo _ _ hw' (by omega) ?_ rfl
    simp only [Transport.settled_mem, Memory.append_out, List.length_append, List.length_drop, bitsOf_length]
    omega
  · exact State.failTransaction_inv _ e hw' hb rfl
  · obtain ⟨hout, hlen, hqn⟩ := Transport.queueSome_placed v n q s.tr.answered (by simp; omega)
    refine h.setTr _ hw' hout hlen ((State.progressInv_iff _ ?_).mpr ⟨?_, fun _ => hck hcap⟩)
    · exact hi
    · simpa [hn] using hqn

/-- A capture phase keeps the invariant if what it goes on to when its call returns meets it. -/
theorem State.Inv.afterCapture {s : State} (h : s.Inv) (off n : Nat) (go : Nat → State → State)
    (hcap : s.eng.phase.captures = true)
    (hgo : ∀ v t, t.mem.wf = true → t.mem.out = s.tr.mem.out → t.progress = Progress.none → (go v (s.setTr t)).Inv) :
    (s.afterCall (captureCall off n s.tr) go).Inv := by
  have hi : s.eng.phase ≠ .idle := fun hp => by simp [hp, Phase.captures] at hcap
  obtain ⟨hw, hb, -, hq, hpr⟩ := id h
  obtain ⟨hle, -⟩ := (s.progressInv_iff hi).mp hpr
  have hw' := (captureCall_grew off n s.tr).wf hw
  have hout := captureCall_frame off n s.tr
  rcases captureCall_cases off n s.tr with ⟨rest, -, -, hc⟩ | ⟨rest, -, -, hc⟩ | ⟨e, g, c, rest, -, hc⟩ | ⟨q, c, -, hc⟩ <;>
    rw [hc] at hw' hout ⊢
  · exact hgo _ _ hw' hout rfl
  · exact State.failTransaction_inv _ _ hw' hb rfl
  · exact State.failTransaction_inv _ _ hw' hb rfl
  · refine h.setTr _ hw' (by simp) (by simp) ((State.progressInv_iff _ ?_).mpr ⟨?_, by simp [hcap]⟩)
    · exact hi
    · simpa using hle

/-! The engine keeps the invariant and meets no fault. -/

/-- Every phase finds its latches written, and leaves the next phase's so (R143). -/
theorem tick_keepsInv (s : State) (h : s.Inv) : ∃ s', tick s = .next s' ∧ s'.Inv := by
  obtain ⟨-, hb, hp, -, -⟩ := id h
  cases hph : s.eng.phase <;> simp only [State.PhaseInv, hph] at hp
  case idle => exact ⟨s, tick_waits s (.inl hph), h⟩
  case done => exact ⟨s, tick_waits s (.inr (.inl hph)), h⟩
  case failed => exact ⟨s, tick_waits s (.inr (.inr hph)), h⟩
  case qHdr =>
    obtain ⟨hr, hn⟩ := hp
    obtain ⟨r, hreq⟩ := Option.isSome_iff_exists.mp hr
    refine ⟨_, tick_qHdr s r hph hreq, h.afterQueue _ _ _ (by simp [hph, Phase.queueWidth])
      (by decide) fun off t hw _ _ ht => ?_⟩
    exact State.inv_of_none _ hw hb ⟨hr, hn⟩ ht
  case qAck =>
    obtain ⟨hr, hn⟩ := hp
    refine ⟨_, tick_qAck s hph, h.afterQueue _ _ _ (by simp [hph, Phase.queueWidth])
      (by decide) fun off t hw _ hout ht => ?_⟩
    have hl' : off + 3 + t.progress.queued = t.mem.out.length := by rw [ht, hout, Progress.none_queued]
    exact State.inv_of_none _ hw hb ⟨hr, hn, off, rfl, hl'⟩ ht
  case qData =>
    obtain ⟨hr, hn, ackOff, ho, hl⟩ := hp
    obtain ⟨r, hreq⟩ := Option.isSome_iff_exists.mp hr
    obtain ⟨d, p, hv⟩ := dataPhaseValues_of_built r (hb r hreq)
    refine ⟨_, tick_qData s r d p hph hreq hv, h.afterQueue _ _ _ (by simp [hph, Phase.queueWidth])
      (by decide) fun off t hw hoff hout ht => ?_⟩
    have hl' : ackOff + 35 + t.progress.queued = t.mem.out.length := by rw [ht, hout, Progress.none_queued]; omega
    exact State.inv_of_none _ hw hb ⟨hr, hn, ackOff, ho, hl'⟩ ht
  case qPar =>
    obtain ⟨hr, hn, ackOff, ho, hl⟩ := hp
    obtain ⟨r, hreq⟩ := Option.isSome_iff_exists.mp hr
    obtain ⟨d, p, hv⟩ := dataPhaseValues_of_built r (hb r hreq)
    refine ⟨_, tick_qPar s r d p hph hreq hv, h.afterQueue _ _ _ (by simp [hph, Phase.queueWidth])
      (by decide) fun off t hw hoff hout ht => ?_⟩
    have hl' : ackOff + 36 ≤ t.mem.out.length := by omega
    exact State.inv_of_none _ hw hb ⟨hr, hn, ackOff, ho, hl'⟩ ht
  case cAck =>
    obtain ⟨hr, hn, ackOff, ho, hl⟩ := hp
    obtain ⟨r, hreq⟩ := Option.isSome_iff_exists.mp hr
    refine ⟨_, tick_cAck s r ackOff hph hreq ho, h.afterCapture _ _ _ (by simp [hph, Phase.captures]) fun v t hw hout ht => ?_⟩
    refine State.inv_of_none _ hw hb ?_ ht
    cases hd : r.dir with
    | read => exact ⟨hr, hn, rfl, ackOff, ho, by simpa [hout] using hl⟩
    | write => exact ⟨hn, rfl, r, hreq, by simp [hd]⟩
  case cData =>
    obtain ⟨hr, hn, ha, ackOff, ho, hl⟩ := hp
    refine ⟨_, tick_cData s ackOff hph ho, h.afterCapture _ _ _ (by simp [hph, Phase.captures]) fun v t hw hout ht => ?_⟩
    exact State.inv_of_none _ hw hb ⟨hr, hn, ha, rfl, ackOff, ho, by simpa [hout] using hl⟩ ht
  case cPar =>
    obtain ⟨hr, hn, ha, hd, ackOff, ho, -⟩ := hp
    obtain ⟨r, hreq⟩ := Option.isSome_iff_exists.mp hr
    refine ⟨_, tick_cPar s ackOff hph ho, h.afterCapture _ _ _ (by simp [hph, Phase.captures]) fun v t hw _ ht => ?_⟩
    exact State.inv_of_none _ hw hb ⟨hn, ha, r, hreq, fun _ => ⟨hd, rfl⟩⟩ ht
  case classify =>
    obtain ⟨hn, ha, r, hreq, hrd⟩ := hp
    obtain ⟨a, hack⟩ := Option.isSome_iff_exists.mp ha
    have presented : ∀ resp, (s.present resp).Inv := fun resp => by
      obtain ⟨hw, -, -, hq, hpr⟩ := h
      rw [State.progressInv_iff s (by simp [hph]), hph] at hpr
      exact ⟨hw, hb, rfl, hq, hpr⟩
    cases hd : r.dir with
    | write => exact ⟨_, tick_classify_write s r a hph hreq hd hack, presented _⟩
    | read =>
      obtain ⟨hdata, hpar⟩ := hrd hd
      obtain ⟨d, hdata⟩ := Option.isSome_iff_exists.mp hdata
      obtain ⟨p, hpar⟩ := Option.isSome_iff_exists.mp hpar
      exact ⟨_, tick_classify_read s r a d p hph hreq hd hack hdata hpar, presented _⟩

theorem runEngine_keepsInv (k : Nat) (s : State) (h : s.Inv) : ∃ s', runEngine k s = .next s' ∧ s'.Inv := by
  induction k generalizing s with
  | zero => exact ⟨s, rfl, h⟩
  | succ k ih =>
    obtain ⟨s', ht, h'⟩ := tick_keepsInv s h
    by_cases hp : s'.eng.phase = s.eng.phase
    · exact ⟨s', by simp [runEngine, ht, hp], h'⟩
    · obtain ⟨s'', hrun, h''⟩ := ih s' h'
      exact ⟨s'', by rw [runEngine_move k s s' ht hp, hrun], h''⟩

/-- `send` of a built Request starts from a state of the invariant, whatever the latches held before (R145). -/
theorem sendBuilt_keepsInv (s : State) (r : Request) (hw : s.tr.mem.wf = true) (hr : s.req = some r) (hb : r.built = true) :
    ∃ s', sendBuilt s = .next s' ∧ s'.Inv := by
  refine runEngine_keepsInv _ _ (State.inv_of_none _ hw (fun q hq => ?_) ?_ rfl)
  · obtain rfl : r = q := Option.some.inj (hr.symm.trans hq)
    exact hb
  · simp [State.PhaseInv, hr]

/-! A step of the machine keeps the invariant and meets no unwritten latch. -/

/-- What may come of a state of the invariant: a state of the invariant, a refusal, or the transport's own failure. -/
def KeepsInv : Result → Prop
  | .next s => s.Inv
  | .fault (.transportError _) => True
  | .fault (.unwrittenLatch _) => False
  | .refused _ => True

theorem keepsInv_of_next (o : Result) (h : ∃ s', o = .next s' ∧ s'.Inv) : KeepsInv o := by
  obtain ⟨s', rfl, h'⟩ := h
  exact h'

theorem access_keepsInv (n : Nat) (ap : Bool) (dir : Direction) (p : Option Word) (s : State) (hw : s.tr.mem.wf = true) :
    KeepsInv (access n ap dir p s) := by
  cases hr : buildRequest n ap dir p with
  | none => simp [access, hr, KeepsInv]
  | some r =>
    rw [access_of_built s n ap dir p r hr]
    split
    · exact keepsInv_of_next _ (sendBuilt_keepsInv _ r hw rfl (buildRequest_built n ap dir p r hr))
    · trivial

theorem exec_keepsInv_of_idle (i : Instr) (s : State) (hp : s.eng.phase = .idle) (hw : s.tr.mem.wf = true) :
    KeepsInv (exec i s) := by
  rcases exec_cases s i with ⟨n, ap, dir, p, h⟩ | ⟨a, -, h⟩ <;> rw [h]
  · exact access_keepsInv n ap dir p s hw
  · simp [ackRow, hp, KeepsInv]

theorem runWord_keepsInv_of_idle (bytes : List Byte) (s : State) (hp : s.eng.phase = .idle) (hw : s.tr.mem.wf = true) :
    KeepsInv (runWord bytes s) := by
  unfold runWord
  split
  · split
    · exact exec_keepsInv_of_idle _ s hp hw
    · trivial
  · trivial
  · trivial
  · trivial

/-- An IDLE engine holds nothing of a transaction (R38). -/
theorem State.Inv.empty_of_idle {s : State} (h : s.Inv) (hp : s.eng.phase = .idle) : s.eng = Engine.empty ∧ s.response = none := by
  obtain ⟨-, -, hph, -, -⟩ := h
  simpa only [State.PhaseInv, hp] using hph

/-- A call of the caller's own that is over leaves an IDLE engine with nothing under way. -/
theorem handed_inv (s : State) (t : Transport) (rest : List Command) (d : Delivery) (hp : s.eng = Engine.empty)
    (hn : s.response = none) (hb : ∀ r, s.req = some r → r.built = true) (hw : t.mem.wf = true)
    (ht : t.progress = Progress.none) : (((s.setTr t).setCommands rest).deliver d).Inv :=
  State.inv_of_none _ hw hb (State.phaseInv_of_empty _ hp hn) ht

/-- The caller's own `Queue` between sends. -/
theorem callerQueue_inv (s : State) (h : s.Inv) (hp : s.eng.phase = .idle) (v n : Nat) (rest : List Command)
    (hc : s.caller.commands = .queue v n :: rest) : (callerCall rest .offset (queueCall v n s.tr) s).Inv := by
  obtain ⟨he, hn⟩ := h.empty_of_idle hp
  obtain ⟨hw, hb, -, -, hpr⟩ := id h
  simp only [State.ProgressInv, hp, hc, List.head?_cons] at hpr
  obtain ⟨hle, hck⟩ := hpr
  have hw' := (queueCall_grew v n s.tr).wf hw
  rcases queueCall_cases v n s.tr with ⟨_, -, hr⟩ | ⟨_, _, _, _, -, hr⟩ | ⟨q, c, -, hr⟩ <;> rw [hr] at hw' ⊢
  · exact handed_inv s _ rest _ he hn hb hw' rfl
  · exact handed_inv s _ rest _ he hn hb hw' rfl
  · obtain ⟨hout, hlen, hqn⟩ := Transport.queueSome_placed v n q s.tr.answered hle
    refine h.setTr _ hw' hout hlen ?_
    simpa [State.ProgressInv, hp, hc, hck] using hqn

/-- The caller's own `Capture` between sends. -/
theorem callerCapture_inv (s : State) (h : s.Inv) (hp : s.eng.phase = .idle) (off n : Nat) (rest : List Command)
    (hc : s.caller.commands = .capture off n :: rest) : (callerCall rest .value (captureCall off n s.tr) s).Inv := by
  obtain ⟨he, hn⟩ := h.empty_of_idle hp
  obtain ⟨hw, hb, -, -, hpr⟩ := id h
  simp only [State.ProgressInv, hp, hc, List.head?_cons] at hpr
  have hw' := (captureCall_grew off n s.tr).wf hw
  rcases captureCall_cases off n s.tr with ⟨_, -, -, hr⟩ | ⟨_, -, -, hr⟩ | ⟨_, _, _, _, -, hr⟩ | ⟨q, c, -, hr⟩ <;> rw [hr] at hw' ⊢
  · exact handed_inv s _ rest _ he hn hb hw' rfl
  · exact handed_inv s _ rest _ he hn hb hw' rfl
  · exact handed_inv s _ rest _ he hn hb hw' rfl
  · refine h.setTr _ hw' (by simp) (by simp) ?_
    simpa [State.ProgressInv, hp, hc] using hpr

theorem resetBlock_inv (s : State) (hw : s.tr.mem.wf = true) : s.resetBlock.Inv :=
  State.inv_of_none _ hw (fun _ h => nomatch h) (State.phaseInv_of_empty _ rfl rfl) rfl

theorem finish_inv (s : State) (d : Delivery) (hw : s.tr.mem.wf = true) (hb : ∀ r, s.req = some r → r.built = true)
    (ht : s.tr.progress = Progress.none) : (s.finish d).Inv :=
  State.inv_of_none _ hw hb (State.phaseInv_of_empty _ rfl rfl) ht

theorem runBuild_keepsInv_of_idle (n : Nat) (ap : Bool) (dir : Direction) (p : Option Word) (s : State) (hw : s.tr.mem.wf = true)
    (he : s.eng = Engine.empty) (hn : s.response = none) (ht : s.tr.progress = Progress.none) : KeepsInv (runBuild n ap dir p s) := by
  cases hr : buildRequest n ap dir p with
  | none => simp [runBuild, hr, KeepsInv]
  | some r =>
    simp only [runBuild, hr]
    refine State.inv_of_none _ hw (fun q hq => ?_) (State.phaseInv_of_empty _ he hn) ht
    obtain rfl : r = q := Option.some.inj hq
    exact buildRequest_built n ap dir p r hr

theorem runSend_keepsInv (s : State) (hw : s.tr.mem.wf = true) (hb : ∀ r, s.req = some r → r.built = true) :
    KeepsInv (runSend s) := by
  cases hr : s.req with
  | none => simp [runSend, hr, KeepsInv]
  | some r =>
    simp only [runSend, hr]
    exact keepsInv_of_next _ (sendBuilt_keepsInv s r hw hr (hb r hr))

/-- Whatever the caller asks of an IDLE engine (R211, R214). -/
theorem idleStep_keepsInv (s : State) (h : s.Inv) (hp : s.eng.phase = .idle) : KeepsInv (idleStep s) := by
  obtain ⟨he, hn⟩ := h.empty_of_idle hp
  obtain ⟨hw, hb, -, -, hpr⟩ := id h
  rcases hc : s.caller.commands with _ | ⟨c, rest⟩
  · simp only [idleStep, hc]
    exact h
  · cases c <;> simp only [idleStep, hc]
    case word bytes => exact runWord_keepsInv_of_idle bytes _ hp hw
    case request n ap dir p => exact exec_keepsInv_of_idle _ _ hp hw
    case build n ap dir p =>
      simp only [State.ProgressInv, hp, hc, List.head?_cons] at hpr
      exact runBuild_keepsInv_of_idle n ap dir p _ hw he hn hpr
    case send => exact runSend_keepsInv _ hw hb
    case take => trivial
    case reset => exact resetBlock_inv _ hw
    case queue v n => exact callerQueue_inv s h hp v n rest hc
    case capture off n => exact callerCapture_inv s h hp off n rest hc

/-- In DONE and FAILED no call is under way. -/
theorem State.Inv.progress_none {s : State} (h : s.Inv) (hp : s.eng.phase = .done ∨ s.eng.phase = .failed) :
    s.tr.progress = Progress.none := by
  obtain ⟨-, -, -, -, hpr⟩ := h
  rcases hprog : s.tr.progress with ⟨q, c⟩
  rcases hp with hp | hp <;> simpa [State.ProgressInv, hp, hprog, Phase.queueWidth, Phase.captures, Progress.none] using hpr

theorem doneStep_keepsInv (s : State) (h : s.Inv) (hp : s.eng.phase = .done) : KeepsInv (doneStep s) := by
  have ht := h.progress_none (.inl hp)
  obtain ⟨hw, hb, hph, -, -⟩ := id h
  simp only [State.PhaseInv, hp] at hph
  obtain ⟨r, hr⟩ := Option.isSome_iff_exists.mp hph
  simp only [doneStep, hr]
  split
  · exact h
  · exact finish_inv _ _ hw hb ht
  · exact finish_inv _ _ hw hb ht

theorem failedStep_keepsInv (s : State) (h : s.Inv) (hp : s.eng.phase = .failed) : KeepsInv (failedStep s) := by
  have ht := h.progress_none (.inr hp)
  obtain ⟨hw, hb, hph, -, -⟩ := id h
  simp only [State.PhaseInv, hp] at hph
  obtain ⟨he, -⟩ := hph
  obtain ⟨e, he⟩ := Option.isSome_iff_exists.mp he
  simp only [failedStep, he]
  split
  · exact finish_inv _ _ hw hb ht
  · trivial

theorem phaseStep_keepsInv (s : State) (h : s.Inv) : KeepsInv (phaseStep s) := by
  cases hp : s.eng.phase <;> simp only [phaseStep, hp]
  case idle => exact idleStep_keepsInv s h hp
  case classify => exact classifyStep_eq_tick s hp ▸ keepsInv_of_next _ (tick_keepsInv s h)
  case done => exact doneStep_keepsInv s h hp
  case failed => exact failedStep_keepsInv s h hp
  all_goals exact keepsInv_of_next _ (runEngine_keepsInv _ s h)

theorem step_keepsInv (s : State) (h : s.Inv) : KeepsInv (step s) := by
  rcases step_cases s with ⟨rest, -, hs⟩ | hs <;> rw [hs]
  · obtain ⟨hw, -⟩ := h
    exact resetBlock_inv _ hw
  · exact phaseStep_keepsInv s h

/-- Settles O53: a step from the invariant keeps it, is refused, or reports the transport's own failure. -/
theorem noStepReadsAnUnwrittenLatch : Obligations.NoStepReadsAnUnwrittenLatch := by
  intro s l h hs
  have hk := step_keepsInv s h
  rwa [hs] at hk

end Sys2Proof.Machine
end

section
/-! PROOFS. The memory family (20_memory.md R50 to R68): what `Queue` and `Capture` do to the transport buffer, that waiting changes no
result, who may call them, and the invariant of a run with the failures it allows. -/

namespace Sys2Proof.Machine

/-! The invariant of a run. -/

/-- Settles O52: what `step_keepsInv` says of a step that answers a next state. -/
theorem everyStepKeepsTheInvariant : Obligations.EveryStepKeepsTheInvariant := by
  intro s s' h hs
  have hk := step_keepsInv s h
  rwa [hs] at hk

/-! `Queue` (R52 to R54). -/

/-- Only the low bits of a value are queued (R53). -/
theorem bitsOf_mod (v n : Nat) : bitsOf (v % 2 ^ n) n = bitsOf v n := by
  refine List.map_congr_left fun i hi => ?_
  simp [Nat.testBit_mod_two_pow, List.mem_range.mp hi]

theorem queueCall_mod (v n : Nat) (t : Transport) : queueCall (v % 2 ^ n) n t = queueCall v n t := by
  simp only [queueCall, bitsOf_mod]

/-- Settles O19: the buffer after a `Queue` that returns is the old one with the value's bits behind it. -/
theorem queueAppendsLowBitsFirst : Obligations.QueueAppendsLowBitsFirst := by
  refine ⟨fun v n t rest ha hp =>
      ⟨_, queueCall_returns_fresh v n t rest ha hp, ?_, fun i hi => ?_, fun p hlt => ?_, rfl, rfl, rfl, hp⟩,
    fun v n t => (queueCall_mod v n t).symm, fun v n t e g c rest ha => ⟨_, queueCall_fails v n t e g c rest ha⟩⟩
  · simp
  · simp [Memory.readOut, List.getElem?_append_right, bitsOf_getElem? v n i hi]
  · exact List.getElem?_append_left hlt

/-- A `Queue` that returns leaves its positions at the end of the buffer, from the offset it returns on, and nothing under way. -/
theorem queueCall_returned (v n o : Nat) (t t' : Transport) (hn : t.progress.queued ≤ n)
    (hl : t.progress.queued ≤ t.mem.out.length) (h : queueCall v n t = .returned o t') :
    t'.mem.out.length = o + n ∧ t'.progress = Progress.none := by
  rcases queueCall_cases v n t with ⟨rest, -, hc⟩ | ⟨e, g, c, rest, -, hc⟩ | ⟨q, c, -, hc⟩ <;> rw [hc] at h <;> cases h
  refine ⟨?_, rfl⟩
  simp only [Transport.settled_mem, Memory.append_out, List.length_append, List.length_drop, bitsOf_length]
  omega

/-- Settles O20: the second `Queue` returns the length the first has left. -/
theorem consecutiveQueuesAreContiguous : Obligations.ConsecutiveQueuesAreContiguous := by
  intro v₁ n₁ v₂ n₂ o₁ t t₁ rest ha hn hl h
  obtain ⟨hout, hp⟩ := queueCall_returned v₁ n₁ o₁ t t₁ hn hl h
  exact ⟨_, hout ▸ queueCall_returns_fresh v₂ n₂ t₁ rest ha hp⟩

/-! `Capture` (R55 to R57, R60). -/

/-- A position of `TR.in` that stands already reads the same when `TR.in` has grown. -/
theorem Memory.readIn_of_prefix (m m' : Memory) (p : Nat) (h : m.shifted <+: m'.shifted) (hp : p < m.clocked) :
    m'.readIn p = m.readIn p := by
  obtain ⟨tail, ht⟩ := h
  rw [Memory.readIn, Memory.readIn, ← ht, List.getElem?_append_left hp]

theorem Memory.valueAt_lt (m : Memory) (off n : Nat) : m.valueAt off n < 2 ^ n :=
  (valueOf_lt _).trans_le (Nat.pow_le_pow_right (by decide) (List.length_take_le ..))

/-- Bit `i` of a captured value is the bit shifted in at `off + i` (R55). -/
theorem Memory.readIn_eq_testBit_valueAt (m : Memory) (off n i : Nat) (hi : i < n) (h : off + n ≤ m.clocked) :
    m.readIn (off + i) = some ((m.valueAt off n).testBit i) := by
  have hlt : off + i < m.shifted.length := (Nat.add_lt_add_left hi off).trans_le h
  simp [Memory.readIn, Memory.valueAt, valueOf_testBit, List.getD_eq_getElem?_getD, List.getElem?_drop, hi, hlt]

/-- How far the bus is clocked once it is up to date (R56). -/
theorem Transport.sync_length (limit : Nat) (t : Transport) (hw : t.mem.wf = true) :
    (t.sync limit).mem.clocked =
      if t.progress.clocking = true ∨ t.mem.clocked < limit then t.mem.out.length else t.mem.clocked := by
  rw [Memory.wf_iff] at hw
  unfold Transport.sync
  split
  · rw [Memory.clocked, Transport.clock_length, Memory.unclocked_length]; omega
  · rfl

/-- Settles O21: the value is read off `TR.in` after `sync`, which reaches `off + n` and only lengthens `TR.in`. -/
theorem captureReadsWhatWasShiftedIn : Obligations.CaptureReadsWhatWasShiftedIn := by
  intro off n t rest hw ha hq
  refine ⟨_, _, captureCall_returns off n t rest ha hq, Memory.valueAt_lt .., fun i hi => ?_, ?_, ?_, fun p hp => ?_, ?_⟩
  · exact Memory.readIn_eq_testBit_valueAt _ off n i hi (Transport.sync_clocked (off + n) { t with answers := rest } hq)
  · exact Transport.sync_length (off + n) { t with answers := rest } hw
  · simp
  · exact Memory.readIn_of_prefix t.mem _ p (Transport.sync_prefix (off + n) { t with answers := rest }) hp
  · simp

/-- A `Capture` that returned leaves its positions clocked and nothing under way; its value stands in `TR.in` (R55). -/
theorem captureCall_returned (off n v : Nat) (t t' : Transport) (h : captureCall off n t = .returned v t') :
    v = t'.mem.valueAt off n ∧ off + n ≤ t'.mem.clocked ∧ off + n ≤ t'.mem.out.length ∧ t'.progress = Progress.none := by
  rcases captureCall_cases off n t with ⟨rest, -, hq, hc⟩ | ⟨rest, -, -, hc⟩ | ⟨e, g, c, rest, -, hc⟩ | ⟨q, c, -, hc⟩ <;>
    rw [hc] at h <;> cases h
  exact ⟨rfl, Transport.sync_clocked (off + n) { t with answers := rest } hq, by simpa using hq, rfl⟩

/-- Settles O22: the second `Capture` finds its positions clocked, so it clocks nothing and reads the same bits. -/
theorem captureIsIdempotent : Obligations.CaptureIsIdempotent := by
  intro off n v t t₁ rest _ h ha
  obtain ⟨rfl, hck, hq, hp⟩ := captureCall_returned off n v t t₁ h
  rw [captureCall_returns off n t₁ rest ha hq, Transport.sync_of_clocked (off + n) { t₁ with answers := rest } (by simp [hp]) hck,
    Transport.settled_of_none { t₁ with answers := rest } hp]

/-- Settles O23: of a capture past the queued positions `captureCall_unqueued` gives the failure, the call's frame the rest. -/
theorem unqueuedCaptureFails : Obligations.UnqueuedCaptureFails := by
  intro off n t rest ha hq
  have hc := captureCall_unqueued off n t rest ha hq
  have hg := captureCall_grew off n t
  have hout := captureCall_frame off n t
  rw [hc] at hg hout
  exact ⟨_, hc, hout, hg.shifted, hg.wf, rfl⟩

/-! On a loopback (R68). -/

/-- On a loopback the bits shifted in are those queued. -/
theorem Transport.clock_loopback (t : Transport) (h : t.wire = .loopback) :
    (t.clock t.mem.unclocked.length).mem.shifted = t.mem.shifted ++ t.mem.unclocked := by
  simp [Transport.clock_shifted, h, Wire.shiftIn_loopback]

/-- A capture that is up to date on a loopback and reads no position clocked before reads what is queued there. -/
theorem Transport.sync_loopback_valueAt (off n : Nat) (t : Transport) (h : t.wire = .loopback) (hw : t.mem.clocked ≤ off)
    (hq : off + n ≤ t.mem.out.length) :
    (t.sync (off + n)).mem.valueAt off n = valueOf ((t.mem.out.drop off).take n) := by
  unfold Transport.sync
  split
  case isTrue =>
    rw [Memory.valueAt, Transport.clock_loopback t h, List.drop_append, List.drop_eq_nil_of_le hw, Memory.unclocked, List.drop_drop,
      Nat.add_sub_cancel' hw, List.nil_append]
  case isFalse hc =>
    have hle : off + n ≤ t.mem.clocked := by simpa using (not_or.mp hc).2
    obtain rfl : n = 0 := by omega
    simp [Memory.valueAt, valueOf]

/-- Settles O24: the capture reads the bits the `Queue` has put at the end of the buffer. -/
theorem loopbackReadsBackTheQueuedValue : Obligations.LoopbackReadsBackTheQueuedValue := by
  intro v n t rest hw hl ha hp
  have hv := Transport.sync_loopback_valueAt t.mem.out.length n
    { t with mem := t.mem.append (bitsOf v n), answers := rest } hl ((Memory.wf_iff _).mp hw) (by simp)
  simp only [Memory.append_out, List.drop_left, List.take_of_length_le (bitsOf_length v n).le, valueOf_bitsOf] at hv
  exact ⟨_, _, queueCall_returns_fresh v n t (.returns :: rest) ha hp,
    (captureCall_returns _ n _ rest rfl (by simp)).trans (congrArg (CallResult.returned · _) hv)⟩

/-! A failed call (R66, U5). -/

/-- Settles O25: the failing answer ends both calls; what each leaves is its frame. -/
theorem failedCallLeavesBoundedTraces : Obligations.FailedCallLeavesBoundedTraces := by
  intro a n t e g c rest hw ha
  have hqueue := queueCall_fails a n t e g c rest ha
  have hqueued := queueCall_grew a n t
  have hframe := queueCall_frame a n t
  have hcapture := captureCall_fails a n t e g c rest ha
  have hcaptured := captureCall_grew a n t
  have hout := captureCall_frame a n t
  rw [hqueue] at hqueued hframe
  rw [hcapture] at hcaptured hout
  obtain ⟨hlen, hshifted, -⟩ := hframe
  exact ⟨⟨_, hqueue, hqueued.out, hlen, hshifted, rfl⟩, ⟨_, hcapture, hout, hcaptured.shifted, hcaptured.wf hw, rfl⟩⟩

/-! A call that waits (R60, R246; log 29). -/

/-- A `Queue` that has waited ends as one that has not: what is left of its bits follows what is there already (R52). -/
theorem Transport.append_rest_queueSome (bits : List Bool) (q : Nat) (t : Transport) :
    (t.queueSome bits q).mem.append (bits.drop (t.queueSome bits q).progress.queued) =
      t.mem.append (bits.drop t.progress.queued) := by
  have hrest : bits.drop (t.progress.queued + min q (bits.length - t.progress.queued)) = bits.drop (t.progress.queued + q) := by
    rcases Nat.le_total q (bits.length - t.progress.queued) with h | h
    · rw [Nat.min_eq_left h]
    · rw [Nat.min_eq_right h, List.drop_eq_nil_of_le (by omega), List.drop_eq_nil_of_le (by omega)]
  rw [Transport.queueSome_queued, hrest]
  simp only [Transport.queueSome, Memory.append_append, List.drop_take_append_drop]

/-- What a waiting `Capture` does to the bus does not depend on the coming answers. -/
theorem Transport.clockSome_setAnswers (limit c : Nat) (as : List Answer) (t : Transport) :
    { t.clockSome limit c with answers := as } = Transport.clockSome limit c { t with answers := as } := by
  unfold Transport.clockSome
  split <;> rfl

/-- The `Queue` half of O59. -/
theorem queueCall_pending_returns (v n q c : Nat) (t : Transport) (rest : List Answer)
    (ha : t.answers = .pending q c :: .returns :: rest) (hn : t.progress.queued ≤ n) (hl : t.progress.queued ≤ t.mem.out.length) :
    ∃ t' t'', queueCall v n t = .waiting t' ∧
      t'.mem.out = t.mem.out ++ ((bitsOf v n).drop t.progress.queued).take q ∧
      t'.progress.queued = min n (t.progress.queued + q) ∧
      t'.mem.shifted = t.mem.shifted ∧ t'.wire = t.wire ∧ t'.answers = .returns :: rest ∧
      queueCall v n t' = .returned (t.mem.out.length - t.progress.queued) t'' ∧
      queueCall v n { t with answers := .returns :: rest } = .returned (t.mem.out.length - t.progress.queued) t'' := by
  have ha' : (t.answered.queueSome (bitsOf v n) q).answers = .returns :: rest := by simp [ha]
  have hqd : (t.answered.queueSome (bitsOf v n) q).progress.queued = min n (t.progress.queued + q) := by
    rw [Transport.queueSome_queued, bitsOf_length, Transport.answered_progress]; omega
  refine ⟨_, _, queueCall_pending v n q c t (by simp [Transport.nextAnswer, ha]), rfl, hqd, rfl, rfl, ha', ?_,
    queueCall_returns v n _ rest rfl⟩
  obtain ⟨hplaced, -, -⟩ := Transport.queueSome_placed v n q t.answered hn
  rw [queueCall_returns v n _ rest ha', Transport.append_rest_queueSome]
  congr 1
  simp only [Transport.answered_mem, Transport.answered_progress] at hplaced
  omega

/-- The `Capture` half of O59. -/
theorem captureCall_pending_returns (off n q c : Nat) (t : Transport) (rest : List Answer)
    (ha : t.answers = .pending q c :: .returns :: rest) (hw : t.mem.wf = true) (hq : off + n ≤ t.mem.out.length) :
    ∃ v t' t'', captureCall off n t = .waiting t' ∧ t'.mem.out = t.mem.out ∧ t.mem.shifted <+: t'.mem.shifted ∧
      t'.mem.clocked = (if t.progress.clocking = true ∨ t.mem.clocked < off + n then min (t.mem.clocked + c) t.mem.out.length
        else t.mem.clocked) ∧
      t'.answers = .returns :: rest ∧ captureCall off n t' = .returned v t'' ∧
      captureCall off n { t with answers := .returns :: rest } = .returned v t'' := by
  have ha' : (t.answered.clockSome (off + n) c).answers = .returns :: rest := by simp [ha]
  have hsame := Transport.sync_clockSome (off + n) c { t with answers := rest }
  have hmem := congrArg Transport.mem hsame
  simp only [Transport.settled_mem] at hmem
  refine ⟨_, _, _, captureCall_pending off n q c t (by simp [Transport.nextAnswer, ha]), by simp,
    Transport.clockSome_prefix (off + n) c t.answered, Transport.clockSome_clocked (off + n) c t.answered hw, ha', ?_,
    captureCall_returns off n _ rest rfl hq⟩
  rw [captureCall_returns off n _ rest ha' (by simpa using hq), Transport.clockSome_setAnswers]
  exact hmem ▸ hsame ▸ rfl

/-- Settles O59: both halves. -/
theorem waitingChangesNoResult : Obligations.WaitingChangesNoResult :=
  ⟨queueCall_pending_returns, captureCall_pending_returns⟩

/-! Who calls the transport (R50, R61, R63). -/

/-- Settles O58: `step` of an IDLE engine is `idleStep`, whose arms for the two commands are `callerCall` of what the call comes to. -/
theorem callerCallsTheTransport : Obligations.CallerCallsTheTransport := by
  intro s cs a n v e t hp
  rw [step_of_idle s hp]
  refine ⟨fun hc => ⟨fun h => ?_, fun h => ?_, fun h => ?_⟩, fun hc => ⟨fun h => ?_, fun h => ?_, fun h => ?_⟩⟩
  all_goals
    rw [idleStep, hc]
    simp only [h]
    rfl

/-! The forms of an instruction, and an instruction out of its phase (R63, R143, R211). -/

/-- Every instruction is, in every state alike, the register access that builds its Request, or CLASSIFY under its ack pattern. -/
theorem exec_forms (i : Instr) :
    (∃ n ap dir p, requestOf i = buildRequest n ap dir p ∧ i.ackPattern = none ∧ ∀ s, exec i s = access n ap dir p s) ∨
    (∃ a, requestOf i = none ∧ i.ackPattern = some a ∧ ∀ s, exec i s = ackRow a s) := by
  have read : ∀ n ap p, some (tableRead (BitVec.ofNat 2 (n % 4)) ap) = buildRequest n ap .read p := fun n ap p =>
    maskIndex_eq_mod n ▸ (buildRequest_read n ap p).symm
  have write : ∀ n ap w, some (tableWrite (BitVec.ofNat 2 (n % 4)) ap w) = buildRequest n ap .write (some w) := fun n ap w =>
    maskIndex_eq_mod n ▸ (buildRequest_write n ap w).symm
  cases i
  case rdDp0 => exact .inl ⟨_, _, _, _, read 0 false none, rfl, exec_rdDp0⟩
  case rdDp1 => exact .inl ⟨_, _, _, _, read 1 false none, rfl, exec_rdDp1⟩
  case rdDp2 => exact .inl ⟨_, _, _, _, read 2 false none, rfl, exec_rdDp2⟩
  case rdDp3 => exact .inl ⟨_, _, _, _, read 3 false none, rfl, exec_rdDp3⟩
  case rdDp n p => exact .inl ⟨_, _, _, _, read n false p, rfl, (exec_rdDp · n p)⟩
  case rdAp0 => exact .inl ⟨_, _, _, _, read 0 true none, rfl, exec_rdAp0⟩
  case rdAp1 => exact .inl ⟨_, _, _, _, read 1 true none, rfl, exec_rdAp1⟩
  case rdAp2 => exact .inl ⟨_, _, _, _, read 2 true none, rfl, exec_rdAp2⟩
  case rdAp3 => exact .inl ⟨_, _, _, _, read 3 true none, rfl, exec_rdAp3⟩
  case rdAp n p => exact .inl ⟨_, _, _, _, read n true p, rfl, (exec_rdAp · n p)⟩
  case wrDp0 w => exact .inl ⟨_, _, _, _, write 0 false w, rfl, (exec_wrDp0 · w)⟩
  case wrDp1 w => exact .inl ⟨_, _, _, _, write 1 false w, rfl, (exec_wrDp1 · w)⟩
  case wrDp2 w => exact .inl ⟨_, _, _, _, write 2 false w, rfl, (exec_wrDp2 · w)⟩
  case wrDp3 w => exact .inl ⟨_, _, _, _, write 3 false w, rfl, (exec_wrDp3 · w)⟩
  case wrDp n p =>
    refine .inl ⟨n, false, .write, p, ?_, rfl, (exec_wrDp · n p)⟩
    cases p with
    | none => rfl
    | some w => exact write n false w
  case wrAp0 w => exact .inl ⟨_, _, _, _, write 0 true w, rfl, (exec_wrAp0 · w)⟩
  case wrAp1 w => exact .inl ⟨_, _, _, _, write 1 true w, rfl, (exec_wrAp1 · w)⟩
  case wrAp2 w => exact .inl ⟨_, _, _, _, write 2 true w, rfl, (exec_wrAp2 · w)⟩
  case wrAp3 w => exact .inl ⟨_, _, _, _, write 3 true w, rfl, (exec_wrAp3 · w)⟩
  case wrAp n p =>
    refine .inl ⟨n, true, .write, p, ?_, rfl, (exec_wrAp · n p)⟩
    cases p with
    | none => rfl
    | some w => exact write n true w
  case ackInvalid0 => exact .inr ⟨_, rfl, rfl, exec_ackInvalid0⟩
  case ackAck => exact .inr ⟨_, rfl, rfl, exec_ackAck⟩
  case ackWait => exact .inr ⟨_, rfl, rfl, exec_ackWait⟩
  case ackInvalid3 => exact .inr ⟨_, rfl, rfl, exec_ackInvalid3⟩
  case ackFault => exact .inr ⟨_, rfl, rfl, exec_ackFault⟩
  case ackInvalid5 => exact .inr ⟨_, rfl, rfl, exec_ackInvalid5⟩
  case ackInvalid6 => exact .inr ⟨_, rfl, rfl, exec_ackInvalid6⟩
  case ackInvalid7 => exact .inr ⟨_, rfl, rfl, exec_ackInvalid7⟩

/-- Settles O56: the access looks at the phase once its Request is built, the ack row at once. -/
theorem outOfPhaseIsRefused : Obligations.OutOfPhaseIsRefused := by
  refine ⟨fun i r s hi hp => ?_, fun i a s hi hp => ?_⟩ <;>
    rcases exec_forms i with ⟨n, ap, dir, p, hr, ha, he⟩ | ⟨b, hr, ha, he⟩
  · rw [he, access_of_built s n ap dir p r (hr ▸ hi), if_neg hp]
  · cases hr ▸ hi
  · cases ha ▸ hi
  · rw [he, ackRow, if_neg hp]

/-! No phase looks at the caller (R62, R208). -/

/-- The state with another caller, what it means to do and what it has been handed. -/
def State.setCaller (c : Caller) (s : State) : State := { s with caller := c }

@[simp] theorem State.setCaller_req (c : Caller) (s : State) : (s.setCaller c).req = s.req := rfl
@[simp] theorem State.setCaller_eng (c : Caller) (s : State) : (s.setCaller c).eng = s.eng := rfl
@[simp] theorem State.setCaller_tr (c : Caller) (s : State) : (s.setCaller c).tr = s.tr := rfl

/-- The same outcome for another caller: of a next state only the caller is replaced. -/
def withCaller (c : Caller) : Result → Result
  | .next s => .next (s.setCaller c)
  | .fault f => .fault f
  | .refused r => .refused r

@[simp] theorem withCaller_next (c : Caller) (s : State) : withCaller c (.next s) = .next (s.setCaller c) := rfl
@[simp] theorem withCaller_fault (c : Caller) (f : Fault) : withCaller c (.fault f) = .fault f := rfl
@[simp] theorem withCaller_refused (c : Caller) (r : Refusal) : withCaller c (.refused r) = .refused r := rfl

/-- A phase's transport call is the same for another caller if what follows its return is. -/
theorem afterCall_setCaller (c : Caller) (s : State) (r : CallResult) (go : Nat → State → State)
    (hgo : ∀ v s, go v (s.setCaller c) = (go v s).setCaller c) :
    (.next ((s.setCaller c).afterCall r go) : Result) = withCaller c (.next (s.afterCall r go)) := by
  cases r with
  | returned v t => exact congrArg Host.Outcome.next (hgo v (s.setTr t))
  | failed e t => rfl
  | waiting t => rfl

theorem classifyUnder_setCaller (c : Caller) (a : AckBits) (s : State) :
    classifyUnder a (s.setCaller c) = withCaller c (classifyUnder a s) := by
  cases hr : s.req with
  | none => simp only [classifyUnder, State.setCaller_req, hr, withCaller_fault]
  | some r =>
    cases hd : r.dir with
    | write => simp only [classifyUnder, State.setCaller_req, hr, hd]; rfl
    | read =>
      cases hdata : s.eng.data <;> cases hpar : s.eng.par <;>
        simp only [classifyUnder, State.setCaller_req, State.setCaller_eng, hr, hd, hdata, hpar] <;> rfl

/-- Every phase reads the block and the transport alone (R143). -/
theorem tick_setCaller (c : Caller) (s : State) : tick (s.setCaller c) = withCaller c (tick s) := by
  cases hp : s.eng.phase <;> simp only [tick, State.setCaller_eng, hp]
  case idle | done | failed => rfl
  case qHdr =>
    cases hr : s.req <;> simp only [phaseQHdr, State.setCaller_req, hr]
    · rfl
    · exact afterCall_setCaller c s _ _ fun _ _ => rfl
  case qAck => exact afterCall_setCaller c s _ _ fun _ _ => rfl
  case qData =>
    cases hr : s.req with
    | none => simp only [phaseQData, State.setCaller_req, hr]; rfl
    | some r =>
      cases hv : dataPhaseValues r <;> simp only [phaseQData, State.setCaller_req, hr, hv]
      · rfl
      · exact afterCall_setCaller c s _ _ fun _ _ => rfl
  case qPar =>
    cases hr : s.req with
    | none => simp only [phaseQPar, State.setCaller_req, hr]; rfl
    | some r =>
      cases hv : dataPhaseValues r <;> simp only [phaseQPar, State.setCaller_req, hr, hv]
      · rfl
      · exact afterCall_setCaller c s _ _ fun _ _ => rfl
  case cAck =>
    cases hr : s.req with
    | none => simp only [phaseCAck, State.setCaller_req, State.setCaller_eng, hr]; rfl
    | some r =>
      cases ho : s.eng.ackOff <;> simp only [phaseCAck, State.setCaller_req, State.setCaller_eng, hr, ho]
      · rfl
      · exact afterCall_setCaller c s _ _ fun _ _ => rfl
  case cData =>
    cases ho : s.eng.ackOff <;> simp only [phaseCData, State.setCaller_eng, ho]
    · rfl
    · exact afterCall_setCaller c s _ _ fun _ _ => rfl
  case cPar =>
    cases ho : s.eng.ackOff <;> simp only [phaseCPar, State.setCaller_eng, ho]
    · rfl
    · exact afterCall_setCaller c s _ _ fun _ _ => rfl
  case classify =>
    cases ha : s.eng.ack <;> simp only [phaseClassify, State.setCaller_eng, ha]
    · rfl
    · exact classifyUnder_setCaller c _ s

theorem runEngine_setCaller (c : Caller) (k : Nat) (s : State) :
    runEngine k (s.setCaller c) = withCaller c (runEngine k s) := by
  induction k generalizing s with
  | zero => rfl
  | succ k ih =>
    simp only [runEngine, tick_setCaller]
    cases tick s with
    | next s' =>
      simp only [withCaller_next, ih, State.setCaller_eng]
      split <;> rfl
    | fault f => rfl
    | refused r => rfl

/-- An access looks at the phase and starts from a state that differs in the caller alone (R145). -/
theorem access_setCaller (c : Caller) (n : Nat) (ap : Bool) (dir : Direction) (p : Option Word) (s : State) :
    access n ap dir p (s.setCaller c) = withCaller c (access n ap dir p s) := by
  cases hb : buildRequest n ap dir p with
  | none => simp only [access, hb, withCaller_refused]
  | some r =>
    rw [access_of_built _ n ap dir p r hb, access_of_built s n ap dir p r hb, State.setCaller_eng]
    split
    · exact runEngine_setCaller c enginePhases (State.begin { s with req := some r })
    · rfl

theorem ackRow_setCaller (c : Caller) (a : AckBits) (s : State) : ackRow a (s.setCaller c) = withCaller c (ackRow a s) := by
  rw [ackRow, ackRow, State.setCaller_eng]
  split
  · exact classifyUnder_setCaller c a s
  · rfl

theorem exec_setCaller (c : Caller) (i : Instr) (s : State) : exec i (s.setCaller c) = withCaller c (exec i s) := by
  rcases exec_forms i with ⟨n, ap, dir, p, -, -, he⟩ | ⟨a, -, -, he⟩ <;> rw [he, he]
  · exact access_setCaller c n ap dir p s
  · exact ackRow_setCaller c a s

/-- Settles O39: `exec` with another caller is `exec`, then that caller. -/
theorem callerCannotTouchARequest : Obligations.CallerCannotTouchARequest := by
  intro i s s' c h
  have hc := exec_setCaller c i s
  rw [h] at hc
  exact hc

/-! Where a failure comes from (R57, R200, R206). -/

/-- If the call fails, its failure is one of the answers the transport had coming. -/
def CallResult.FailureFrom (t : Transport) (r : CallResult) : Prop :=
  ∀ e t', r = .failed e t' → ∃ g c, .fails e g c ∈ t.answers

/-- If the state is FAILED, its failure is one of the answers the transport had coming. -/
def State.FailureFrom (t : Transport) (s : State) : Prop :=
  s.eng.phase = .failed → ∃ e g c, .fails e g c ∈ t.answers ∧ s.eng.err = some e

/-- The same of a step's next state. -/
def FailureFrom (t : Transport) : Result → Prop
  | .next s => s.FailureFrom t
  | .fault _ => True
  | .refused _ => True

theorem queueCall_failureFrom (v n : Nat) (t : Transport) : (queueCall v n t).FailureFrom t := by
  intro e t' h
  rcases queueCall_cases v n t with ⟨rest, -, hc⟩ | ⟨e', g, c, rest, ha, hc⟩ | ⟨q, c, -, hc⟩ <;> rw [hc] at h <;> cases h
  exact ⟨g, c, by simp [ha]⟩

/-- A `Capture` of queued positions fails by the transport's answer alone (R57). -/
theorem captureCall_failureFrom (off n : Nat) (t : Transport) (hq : off + n ≤ t.mem.out.length) :
    (captureCall off n t).FailureFrom t := by
  intro e t' h
  rcases captureCall_cases off n t with ⟨rest, -, -, hc⟩ | ⟨rest, -, hlt, hc⟩ | ⟨e', g, c, rest, ha, hc⟩ | ⟨q, c, -, hc⟩
  · cases hc ▸ h
  · omega
  · cases hc ▸ h
    exact ⟨g, c, by simp [ha]⟩
  · cases hc ▸ h

theorem State.failureFrom_of_phase (t : Transport) (s : State) (h : s.eng.phase ≠ .failed) : s.FailureFrom t :=
  fun hp => absurd hp h

/-- The state may have come from one with this transport: answers are only taken, and a failure is one of them. -/
structure State.CameFrom (t : Transport) (s : State) : Prop where
  answers : s.tr.answers <:+ t.answers
  failure : s.FailureFrom t

theorem State.CameFrom.refl (s : State) (h : s.eng.phase ≠ .failed) : s.CameFrom s.tr :=
  ⟨List.suffix_refl _, s.failureFrom_of_phase _ h⟩

/-- A failure among the answers still coming was among those that were coming before. -/
theorem State.CameFrom.trans {s s' : State} {t : Transport} (h' : s'.CameFrom s.tr) (h : s.CameFrom t) : s'.CameFrom t := by
  refine ⟨h'.answers.trans h.answers, fun hp => ?_⟩
  obtain ⟨e, g, c, hm, he⟩ := h'.failure hp
  exact ⟨e, g, c, h.answers.mem hm, he⟩

/-- A phase with a call enters FAILED by the failure of its call alone (R206). -/
theorem State.afterCall_cameFrom (s : State) (r : CallResult) (go : Nat → State → State) (hp : s.eng.phase ≠ .failed)
    (hgrew : s.tr.Grew r.after) (hr : r.FailureFrom s.tr)
    (hgo : ∀ v s', (go v s').tr = s'.tr ∧ (go v s').eng.phase ≠ .failed) : (s.afterCall r go).CameFrom s.tr := by
  cases r with
  | returned v t =>
    obtain ⟨htr, hph⟩ := hgo v (s.setTr t)
    exact ⟨by rw [State.afterCall_returned, htr]; exact hgrew.answers, State.failureFrom_of_phase _ _ hph⟩
  | failed e t =>
    obtain ⟨g, c, hm⟩ := hr e t rfl
    exact ⟨hgrew.answers, fun _ => ⟨e, g, c, hm, rfl⟩⟩
  | waiting t => exact ⟨hgrew.answers, State.failureFrom_of_phase _ _ hp⟩

theorem State.afterQueue_cameFrom (s : State) (v n : Nat) (go : Nat → State → State) (hp : s.eng.phase ≠ .failed)
    (hgo : ∀ v s', (go v s').tr = s'.tr ∧ (go v s').eng.phase ≠ .failed) :
    (s.afterCall (queueCall v n s.tr) go).CameFrom s.tr :=
  s.afterCall_cameFrom _ go hp (queueCall_grew v n s.tr) (queueCall_failureFrom v n s.tr) hgo

theorem State.afterCapture_cameFrom (s : State) (off n : Nat) (go : Nat → State → State) (hp : s.eng.phase ≠ .failed)
    (hq : off + n ≤ s.tr.mem.out.length) (hgo : ∀ v s', (go v s').tr = s'.tr ∧ (go v s').eng.phase ≠ .failed) :
    (s.afterCall (captureCall off n s.tr) go).CameFrom s.tr :=
  s.afterCall_cameFrom _ go hp (captureCall_grew off n s.tr) (captureCall_failureFrom off n s.tr hq) hgo

theorem afterAck_ne_failed (dir : Direction) : afterAck dir ≠ .failed := by cases dir <;> decide

/-- In the invariant every capture of the engine is of queued positions, so a phase fails by the transport alone. -/
theorem tick_cameFrom (s s' : State) (h : s.Inv) (hf : s.eng.phase ≠ .failed) (ht : tick s = .next s') : s'.CameFrom s.tr := by
  obtain ⟨-, hb, hp, -, -⟩ := h
  cases hph : s.eng.phase <;> simp only [State.PhaseInv, hph] at hp
  case idle =>
    cases (tick_waits s (.inl hph)).symm.trans ht
    exact .refl s hf
  case done =>
    cases (tick_waits s (.inr (.inl hph))).symm.trans ht
    exact .refl s hf
  case failed => exact absurd hph hf
  case qHdr =>
    obtain ⟨hr, -⟩ := hp
    obtain ⟨r, hreq⟩ := Option.isSome_iff_exists.mp hr
    cases (tick_qHdr s r hph hreq).symm.trans ht
    exact s.afterQueue_cameFrom _ _ _ hf fun _ _ => ⟨rfl, by simp⟩
  case qAck =>
    cases (tick_qAck s hph).symm.trans ht
    exact s.afterQueue_cameFrom _ _ _ hf fun _ _ => ⟨rfl, by simp⟩
  case qData =>
    obtain ⟨hr, -⟩ := hp
    obtain ⟨r, hreq⟩ := Option.isSome_iff_exists.mp hr
    obtain ⟨d, p, hv⟩ := dataPhaseValues_of_built r (hb r hreq)
    cases (tick_qData s r d p hph hreq hv).symm.trans ht
    exact s.afterQueue_cameFrom _ _ _ hf fun _ _ => ⟨rfl, by simp⟩
  case qPar =>
    obtain ⟨hr, -⟩ := hp
    obtain ⟨r, hreq⟩ := Option.isSome_iff_exists.mp hr
    obtain ⟨d, p, hv⟩ := dataPhaseValues_of_built r (hb r hreq)
    cases (tick_qPar s r d p hph hreq hv).symm.trans ht
    exact s.afterQueue_cameFrom _ _ _ hf fun _ _ => ⟨rfl, by simp⟩
  case cAck =>
    obtain ⟨hr, -, off, ho, hl⟩ := hp
    obtain ⟨r, hreq⟩ := Option.isSome_iff_exists.mp hr
    cases (tick_cAck s r off hph hreq ho).symm.trans ht
    exact s.afterCapture_cameFrom _ _ _ hf (by omega) fun _ _ => ⟨rfl, by simp [afterAck_ne_failed]⟩
  case cData =>
    obtain ⟨-, -, -, off, ho, hl⟩ := hp
    cases (tick_cData s off hph ho).symm.trans ht
    exact s.afterCapture_cameFrom _ _ _ hf (by omega) fun _ _ => ⟨rfl, by simp⟩
  case cPar =>
    obtain ⟨-, -, -, -, off, ho, hl⟩ := hp
    cases (tick_cPar s off hph ho).symm.trans ht
    exact s.afterCapture_cameFrom _ _ _ hf (by omega) fun _ _ => ⟨rfl, by simp⟩
  case classify =>
    obtain ⟨-, ha, r, hreq, hrd⟩ := hp
    obtain ⟨a, hack⟩ := Option.isSome_iff_exists.mp ha
    have presented : ∀ resp, (s.present resp).CameFrom s.tr := fun resp =>
      ⟨List.suffix_refl _, State.failureFrom_of_phase _ _ (by simp)⟩
    cases hd : r.dir with
    | write =>
      cases (tick_classify_write s r a hph hreq hd hack).symm.trans ht
      exact presented _
    | read =>
      obtain ⟨hdata, hpar⟩ := hrd hd
      obtain ⟨d, hdata⟩ := Option.isSome_iff_exists.mp hdata
      obtain ⟨p, hpar⟩ := Option.isSome_iff_exists.mp hpar
      cases (tick_classify_read s r a d p hph hreq hd hack hdata hpar).symm.trans ht
      exact presented _

theorem runEngine_cameFrom (k : Nat) (s s' : State) (h : s.Inv) (hf : s.eng.phase ≠ .failed) (hs : runEngine k s = .next s') :
    s'.CameFrom s.tr := by
  induction k generalizing s with
  | zero =>
    cases hs
    exact .refl _ hf
  | succ k ih =>
    obtain ⟨s₁, ht, h₁⟩ := tick_keepsInv s h
    have hfrom := tick_cameFrom s s₁ h hf ht
    by_cases hp : s₁.eng.phase = s.eng.phase
    · simp only [runEngine, ht, hp, if_true] at hs
      cases hs
      exact hfrom
    · rw [runEngine_move k s s₁ ht hp] at hs
      by_cases hf₁ : s₁.eng.phase = .failed
      · cases (runEngine_waits k s₁ (.inr (.inr hf₁))).symm.trans hs
        exact hfrom
      · exact (ih s₁ h₁ hf₁ hs).trans hfrom

/-- From a state of the invariant the engine's run fails by the transport alone. -/
theorem runEngine_failureFrom (k : Nat) (s : State) (h : s.Inv) (hf : s.eng.phase ≠ .failed) :
    FailureFrom s.tr (runEngine k s) := by
  obtain ⟨s', hs, -⟩ := runEngine_keepsInv k s h
  rw [hs]
  exact (runEngine_cameFrom k s s' h hf hs).failure

/-- A built Request's transaction starts in the invariant (R145). -/
theorem State.begin_inv (s : State) (r : Request) (hw : s.tr.mem.wf = true) (hr : s.req = some r) (hb : r.built = true) :
    s.begin.Inv := by
  refine State.inv_of_none _ hw (fun q hq => ?_) (by simp [State.PhaseInv, hr]) rfl
  cases hr.symm.trans hq
  exact hb

theorem sendBuilt_failureFrom (s : State) (r : Request) (hw : s.tr.mem.wf = true) (hr : s.req = some r) (hb : r.built = true) :
    FailureFrom s.tr (sendBuilt s) :=
  runEngine_failureFrom enginePhases s.begin (s.begin_inv r hw hr hb) (by simp)

theorem access_failureFrom (n : Nat) (ap : Bool) (dir : Direction) (p : Option Word) (s : State) (hw : s.tr.mem.wf = true) :
    FailureFrom s.tr (access n ap dir p s) := by
  cases hb : buildRequest n ap dir p with
  | none => simp [access, hb, FailureFrom]
  | some r =>
    rw [access_of_built s n ap dir p r hb]
    split
    · exact sendBuilt_failureFrom _ r hw rfl (buildRequest_built n ap dir p r hb)
    · trivial

theorem exec_failureFrom_of_idle (i : Instr) (s : State) (hp : s.eng.phase = .idle) (hw : s.tr.mem.wf = true) :
    FailureFrom s.tr (exec i s) := by
  rcases exec_forms i with ⟨n, ap, dir, p, -, -, he⟩ | ⟨a, -, -, he⟩ <;> rw [he]
  · exact access_failureFrom n ap dir p s hw
  · simp [ackRow, hp, FailureFrom]

theorem runWord_failureFrom_of_idle (bytes : List Byte) (s : State) (hp : s.eng.phase = .idle) (hw : s.tr.mem.wf = true) :
    FailureFrom s.tr (runWord bytes s) := by
  unfold runWord
  split
  · split
    · exact exec_failureFrom_of_idle _ s hp hw
    · trivial
  · trivial
  · trivial
  · trivial

theorem runSend_failureFrom (s : State) (hw : s.tr.mem.wf = true) (hb : ∀ r, s.req = some r → r.built = true) :
    FailureFrom s.tr (runSend s) := by
  cases hr : s.req with
  | none => simp [runSend, hr, FailureFrom]
  | some r =>
    simp only [runSend, hr]
    exact sendBuilt_failureFrom s r hw hr (hb r hr)

theorem callerCall_eng (rest : List Command) (handed : Nat → Delivery) (r : CallResult) (s : State) :
    (callerCall rest handed r s).eng = s.eng := by
  cases r <;> rfl

/-- An IDLE engine fails in the transaction it starts or not at all. -/
theorem idleStep_failureFrom (s : State) (h : s.Inv) (hp : s.eng.phase = .idle) : FailureFrom s.tr (idleStep s) := by
  have idle : ∀ s' : State, s'.eng.phase = .idle → FailureFrom s.tr (.next s') := fun s' hp' =>
    s'.failureFrom_of_phase _ (by simp [hp'])
  obtain ⟨hw, hb, -, -, -⟩ := h
  rcases hc : s.caller.commands with _ | ⟨c, rest⟩
  · simp only [idleStep, hc]
    exact idle s hp
  · cases c <;> simp only [idleStep, hc]
    case word bytes => exact runWord_failureFrom_of_idle bytes (s.setCommands rest) hp hw
    case request n ap dir p => exact exec_failureFrom_of_idle _ (s.setCommands rest) hp hw
    case build n ap dir p =>
      cases hr : buildRequest n ap dir p <;> simp only [runBuild, hr]
      · trivial
      · exact idle _ hp
    case send => exact runSend_failureFrom (s.setCommands rest) hw hb
    case take => trivial
    case reset => exact idle _ rfl
    case queue v n => exact idle _ (by rw [callerCall_eng, hp])
    case capture off n => exact idle _ (by rw [callerCall_eng, hp])

/-- DONE goes on to IDLE, if at all. -/
theorem doneStep_failureFrom (s : State) (hp : s.eng.phase = .done) : FailureFrom s.tr (doneStep s) := by
  unfold doneStep
  split
  · trivial
  · split
    · exact s.failureFrom_of_phase _ (by simp [hp])
    · exact State.failureFrom_of_phase _ _ (by simp)
    · exact State.failureFrom_of_phase _ _ (by simp)

theorem phaseStep_failureFrom (s : State) (h : s.Inv) (hf : s.eng.phase ≠ .failed) : FailureFrom s.tr (phaseStep s) := by
  cases hp : s.eng.phase <;> simp only [phaseStep, hp]
  case idle => exact idleStep_failureFrom s h hp
  case classify =>
    obtain ⟨s', ht, -⟩ := tick_keepsInv s h
    rw [classifyStep_eq_tick s hp, ht]
    exact (tick_cameFrom s s' h hf ht).failure
  case done => exact doneStep_failureFrom s hp
  case failed => exact absurd hp hf
  all_goals exact runEngine_failureFrom _ s h hf

/-- Settles O54: a step is the reset input, which leads to IDLE, or that of its phase. -/
theorem failuresComeFromTheTransport : Obligations.FailuresComeFromTheTransport := by
  intro s s' h hf hs hp
  rcases step_cases s with ⟨rest, -, hstep⟩ | hstep
  · cases hstep.symm.trans hs
    cases hp
  · have hk := phaseStep_failureFrom s h hf
    rw [← hstep, hs] at hk
    exact hk hp

end Sys2Proof.Machine
end

section
/-! PROOFS. The encoding family (30_encoding.md R81 to R92): the 16 headers and their test, what decodes and to which row, and what the
hand-off refuses. -/

namespace Sys2Proof.Machine

open Sys2Proof.Laws

/-! The test of a header byte and its fields (R82 to R84). -/

@[simp] theorem isHeader_headerTable (dir : Direction) (ap : Bool) (idx : Index) : isHeader (headerTable dir ap idx) = true := by
  cases dir <;> cases ap <;> revert idx <;> decide

theorem fields_headerTable (idx : Index) (ap : Bool) (dir : Direction) :
    headerAp (headerTable dir ap idx) = ap ∧ headerDir (headerTable dir ap idx) = dir ∧ headerIdx (headerTable dir ap idx) = idx := by
  cases dir <;> cases ap <;> revert idx <;> decide

theorem isHeader_iff (h : Byte) : isHeader h = true ↔
    h &&& 0xC1#8 = 0x81#8 ∧ h.getLsbD 5 = (h.getLsbD 1 ^^ h.getLsbD 2 ^^ h.getLsbD 3 ^^ h.getLsbD 4) := by
  simp [isHeader]

theorem toBit_headerDir (h : Byte) : (headerDir h).toBit = h.getLsbD 2 := by
  unfold headerDir
  cases h.getLsbD 2 <;> rfl

theorem getLsbD_headerIdx (h : Byte) : (headerIdx h).getLsbD 0 = h.getLsbD 3 ∧ (headerIdx h).getLsbD 1 = h.getLsbD 4 := by
  unfold headerIdx
  cases h.getLsbD 4 <;> cases h.getLsbD 3 <;> decide

/-- The bits the mask of R82 fixes, as digits of the byte. -/
theorem digits_of_fixedBits (h : Byte) (hf : h &&& 0xC1#8 = 0x81#8) :
    h.toNat % 2 = 1 ∧ h.toNat / 64 % 2 = 0 ∧ h.toNat / 128 % 2 = 1 := by
  have bit : ∀ i, (h.getLsbD i && (0xC1#8).getLsbD i) = (0x81#8).getLsbD i := fun i => by rw [← BitVec.getLsbD_and, hf]
  simpa [BitVec.getLsbD, Nat.testBit_eq_decide_div_mod_eq] using And.intro (bit 0) (And.intro (bit 6) (bit 7))

/-- A byte that meets R84's test is the closed form of R118 of its own fields: three bits are fixed, four are the fields, and the
parity is that of the four. -/
theorem headerOf_fields (h : Byte) (hh : isHeader h = true) : headerOf (headerIdx h) (headerAp h) (headerDir h) = h := by
  obtain ⟨hf, hp⟩ := (isHeader_iff h).mp hh
  obtain ⟨i0, i1⟩ := getLsbD_headerIdx h
  have parity : headerParity (headerIdx h) (headerAp h) (headerDir h) = h.getLsbD 5 := by
    rw [headerParity, toBit_headerDir, i0, i1, hp, headerAp]
  obtain ⟨d0, d6, d7⟩ := digits_of_fixedBits h hf
  have hlt := h.isLt
  rw [headerOf, parity, toBit_headerDir, i0, i1, headerAp]
  apply BitVec.eq_of_toNat_eq
  simp only [BitVec.toNat_ofNat, BitVec.getLsbD, Nat.toNat_testBit]
  omega

/-- R84's test finds exactly the 16 bytes of the table of R83. -/
theorem isHeader_iff_headerTable (h : Byte) : isHeader h = true ↔ ∃ idx ap dir, h = headerTable dir ap idx := by
  constructor
  · intro hh
    exact ⟨_, _, _, (headerOf_fields h hh).symm.trans (headerOf_eq_table _ _ _)⟩
  · rintro ⟨idx, ap, dir, rfl⟩
    exact isHeader_headerTable dir ap idx

/-- Settles O6: a byte that meets the test is the closed form of its own fields, and the fields of each of the 16 are read back. -/
theorem headerDecodingIsExact : Obligations.HeaderDecodingIsExact :=
  ⟨isHeader_iff, isHeader_iff_headerTable, fields_headerTable⟩

theorem isHeader_of_built (r : Request) (h : r.built = true) : isHeader r.header = true := by
  simp only [Request.built, Bool.and_eq_true, beq_iff_eq] at h
  obtain ⟨hh, -⟩ := h
  rw [hh, headerOf_eq_table, isHeader_headerTable]

/-- Settles O4: a built header meets R84's test, and its fixed bits alone make it odd and bound it. -/
theorem headersHaveTheFixedBits : Obligations.HeadersHaveTheFixedBits := by
  intro n ap dir p r h
  obtain ⟨hf, -⟩ := (isHeader_iff r.header).mp (isHeader_of_built r (buildRequest_built n ap dir p r h))
  obtain ⟨d0, d6, d7⟩ := digits_of_fixedBits r.header hf
  have hlt := r.header.isLt
  exact ⟨hf, d0, by omega, by omega⟩

/-! The exact rows (R83, R89): what `decode` answers them for, and what `encode` makes of them. -/

theorem index_cases (idx : Index) : idx = 0#2 ∨ idx = 1#2 ∨ idx = 2#2 ∨ idx = 3#2 := by
  revert idx
  decide

/-- An exact Read row: its bytes, its Request, and that it is its own exact row. -/
theorem readInstr_row (idx : Index) (ap : Bool) :
    encode (readInstr idx ap) = [headerTable .read ap idx] ∧ requestOf (readInstr idx ap) = some (tableRead idx ap) ∧
    (readInstr idx ap).ackPattern = none ∧ (readInstr idx ap).wellFormed = true ∧ (readInstr idx ap).exact = readInstr idx ap := by
  cases ap <;> revert idx <;> decide

/-- An exact Write row: its bytes, its Request, and that it is its own exact row. -/
theorem writeInstr_row (idx : Index) (ap : Bool) (w : Word) :
    encode (writeInstr idx ap w) = headerTable .write ap idx :: payloadBytes w ∧
    requestOf (writeInstr idx ap w) = some (tableWrite idx ap w) ∧ (writeInstr idx ap w).ackPattern = none ∧
    (writeInstr idx ap w).wellFormed = true ∧ (writeInstr idx ap w).exact = writeInstr idx ap w := by
  cases ap <;> rcases index_cases idx with rfl | rfl | rfl | rfl <;> exact ⟨rfl, rfl, rfl, rfl, rfl⟩

/-- An ack row: its byte, its pattern, and that it is its own exact row. -/
theorem ackInstr_row (a : AckBits) :
    encode (ackInstr a) = [a.zeroExtend 8] ∧ (ackInstr a).ackPattern = some a ∧ (ackInstr a).wellFormed = true ∧
    (ackInstr a).exact = ackInstr a := by
  revert a
  decide

/-! Decoding (R84, R89). -/

/-- Four bytes are enough for a payload, and fewer are not. -/
theorem takePayload_eq_none_iff (bytes : List Byte) : takePayload bytes = none ↔ bytes.length < 4 := by
  rcases bytes with _ | ⟨b0, _ | ⟨b1, _ | ⟨b2, _ | ⟨b3, tail⟩⟩⟩⟩ <;> simp [takePayload]

theorem decode_of_takePayload_none (idx : Index) (ap : Bool) (tail : List Byte) (h : takePayload tail = none) :
    decode (headerTable .write ap idx :: tail) = .error (.missingPayload (headerTable .write ap idx)) := by
  obtain ⟨-, hdir, -⟩ := fields_headerTable idx ap .write
  simp [decode, hdir, h]

theorem decode_of_not_header (h : Byte) (tail : List Byte) (hh : isHeader h = false) :
    decode (h :: tail) = if h.toNat < 8 then .ok (ackInstr (BitVec.ofNat 3 h.toNat), tail) else .error (.notAHeader h) := by
  simp [decode, hh]

/-- All that decodes: a Read header, a Write header with its payload, or an ack pattern. -/
theorem decode_ok_cases (bytes rest : List Byte) (i : Instr) (hd : decode bytes = .ok (i, rest)) :
    (∃ idx ap, i = readInstr idx ap ∧ bytes = headerTable .read ap idx :: rest) ∨
    (∃ idx ap w, i = writeInstr idx ap w ∧ bytes = headerTable .write ap idx :: (payloadBytes w ++ rest)) ∨
    (∃ a : AckBits, i = ackInstr a ∧ bytes = a.zeroExtend 8 :: rest) := by
  rcases bytes with _ | ⟨h, tail⟩
  · cases hd
  cases hh : isHeader h with
  | false =>
    rw [decode_of_not_header h tail hh] at hd
    split at hd
    next hlt =>
      cases hd
      exact .inr (.inr ⟨_, rfl, by congr 1; bv_omega⟩)
    next => cases hd
  | true =>
    obtain ⟨idx, ap, dir, rfl⟩ := (isHeader_iff_headerTable h).mp hh
    cases dir with
    | read =>
      rw [RoundTrip.decode_readHeader] at hd
      cases hd
      exact .inl ⟨idx, ap, rfl, rfl⟩
    | write =>
      cases ht : takePayload tail with
      | none =>
        rw [decode_of_takePayload_none idx ap tail ht] at hd
        cases hd
      | some p =>
        obtain ⟨w, rest'⟩ := p
        obtain rfl := eq_of_takePayload tail rest' w ht
        rw [RoundTrip.decode_writeHeader] at hd
        cases hd
        exact .inr (.inl ⟨idx, ap, w, rfl, rfl⟩)

/-- Settles O9: each of the three forms that decode is the bytes of its exact row and what follows them. -/
theorem encodeOfDecodeIsTheBytes : Obligations.EncodeOfDecodeIsTheBytes := by
  intro bytes rest i hd
  rcases decode_ok_cases bytes rest i hd with ⟨idx, ap, rfl, rfl⟩ | ⟨idx, ap, w, rfl, rfl⟩ | ⟨a, rfl, rfl⟩
  · obtain ⟨he, -, -, hw, hx⟩ := readInstr_row idx ap
    exact ⟨by rw [he]; rfl, hw, hx⟩
  · obtain ⟨he, -, -, hw, hx⟩ := writeInstr_row idx ap w
    exact ⟨by rw [he]; rfl, hw, hx⟩
  · obtain ⟨he, -, hw, hx⟩ := ackInstr_row a
    exact ⟨by rw [he]; rfl, hw, hx⟩

/-- Every row of the table is read back: the family RoundTrip, gathered. -/
theorem roundTrip : ∀ i : Instr, RoundTrip.Statement i
  | .rdDp0 => RoundTrip.rdDp0
  | .rdDp1 => RoundTrip.rdDp1
  | .rdDp2 => RoundTrip.rdDp2
  | .rdDp3 => RoundTrip.rdDp3
  | .rdAp0 => RoundTrip.rdAp0
  | .rdAp1 => RoundTrip.rdAp1
  | .rdAp2 => RoundTrip.rdAp2
  | .rdAp3 => RoundTrip.rdAp3
  | .wrDp0 w => RoundTrip.wrDp0 w
  | .wrDp1 w => RoundTrip.wrDp1 w
  | .wrDp2 w => RoundTrip.wrDp2 w
  | .wrDp3 w => RoundTrip.wrDp3 w
  | .wrAp0 w => RoundTrip.wrAp0 w
  | .wrAp1 w => RoundTrip.wrAp1 w
  | .wrAp2 w => RoundTrip.wrAp2 w
  | .wrAp3 w => RoundTrip.wrAp3 w
  | .rdDp n p => RoundTrip.rdDp n p
  | .rdAp n p => RoundTrip.rdAp n p
  | .wrDp n p => RoundTrip.wrDp n p
  | .wrAp n p => RoundTrip.wrAp n p
  | .ackInvalid0 => RoundTrip.ackInvalid0
  | .ackAck => RoundTrip.ackAck
  | .ackWait => RoundTrip.ackWait
  | .ackInvalid3 => RoundTrip.ackInvalid3
  | .ackFault => RoundTrip.ackFault
  | .ackInvalid5 => RoundTrip.ackInvalid5
  | .ackInvalid6 => RoundTrip.ackInvalid6
  | .ackInvalid7 => RoundTrip.ackInvalid7

/-- Only a generic row stands for another row (R92). -/
theorem exact_eq_self (i : Instr) (h : ∀ n p, i ≠ .rdDp n p ∧ i ≠ .rdAp n p ∧ i ≠ .wrDp n p ∧ i ≠ .wrAp n p) :
    i.exact = i := by
  cases i
  case rdDp n p =>
    obtain ⟨hne, -, -, -⟩ := h n p
    exact absurd rfl hne
  case rdAp n p =>
    obtain ⟨-, hne, -, -⟩ := h n p
    exact absurd rfl hne
  case wrDp n p =>
    obtain ⟨-, -, hne, -⟩ := h n p
    exact absurd rfl hne
  case wrAp n p =>
    obtain ⟨-, -, -, hne⟩ := h n p
    exact absurd rfl hne
  all_goals rfl

/-- The exact row stands for what the instruction stands for: its Request, or its ack pattern (R92, R111). -/
theorem exact_stands_for (i : Instr) : requestOf i.exact = requestOf i ∧ i.exact.ackPattern = i.ackPattern := by
  have read : ∀ n ap, requestOf (readInstr (maskIndex n) ap) = some (tableRead (BitVec.ofNat 2 (n % 4)) ap) ∧
      (readInstr (maskIndex n) ap).ackPattern = none := by
    intro n ap
    obtain ⟨-, hr, ha, -, -⟩ := readInstr_row (maskIndex n) ap
    exact ⟨maskIndex_eq_mod n ▸ hr, ha⟩
  have write : ∀ n ap w, requestOf (writeInstr (maskIndex n) ap w) = some (tableWrite (BitVec.ofNat 2 (n % 4)) ap w) ∧
      (writeInstr (maskIndex n) ap w).ackPattern = none := by
    intro n ap w
    obtain ⟨-, hr, ha, -, -⟩ := writeInstr_row (maskIndex n) ap w
    exact ⟨maskIndex_eq_mod n ▸ hr, ha⟩
  cases i
  case rdDp n p => exact read n false
  case rdAp n p => exact read n true
  case wrDp n p =>
    cases p with
    | none => exact ⟨rfl, rfl⟩
    | some w => exact write n false w
  case wrAp n p =>
    cases p with
    | none => exact ⟨rfl, rfl⟩
    | some w => exact write n true w
  all_goals exact ⟨rfl, rfl⟩

/-- Settles O8: the family RoundTrip for the bytes, and what the exact row of each instruction stands for. -/
theorem decodeOfEncodeIsTheInstruction : Obligations.DecodeOfEncodeIsTheInstruction :=
  ⟨fun i rest hw => ⟨roundTrip i hw rest, exact_stands_for i⟩, exact_eq_self⟩

/-- Settles O7: each word is the header of its row, with its payload's bytes behind it, or fails R84's test. -/
theorem writtenWordsDecode : Obligations.WrittenWordsDecode :=
  ⟨roundTrip .rdDp0 rfl [], roundTrip .rdAp3 rfl [], roundTrip (.wrDp2 0x00000003#32) rfl [],
    roundTrip (.wrAp1 0xDEADBEEF#32) rfl [], roundTrip .ackWait rfl [], roundTrip .ackInvalid7 rfl [],
    decode_of_not_header 0x85#8 [] rfl, decode_of_not_header 0x25#8 [] rfl, decode_of_not_header 0xE5#8 [] rfl,
    decode_of_not_header 0xA4#8 [] rfl⟩

/-! The hand-off (R91, R119, R141, R214). -/

/-- A byte that is no header is refused, an ack pattern among them (R91, U14). -/
theorem runWord_of_not_header (h : Byte) (tail : List Byte) (s : State) (hh : isHeader h = false) :
    runWord (h :: tail) s = .refused .notAHeader := by
  by_cases hlt : h.toNat < 8
  · obtain ⟨-, ha, -, -⟩ := ackInstr_row (BitVec.ofNat 3 h.toNat)
    simp only [runWord, decode_of_not_header h tail hh, if_pos hlt, ha]
  · simp only [runWord, decode_of_not_header h tail hh, if_neg hlt]

/-- Settles O57: `step` of an IDLE engine is `idleStep`, and each of these hand-offs fails in its own arm of it. -/
theorem handOffRefusals : Obligations.HandOffRefusals := by
  intro s cs hp
  rw [step_of_idle s hp, idleStep]
  refine ⟨fun hc => by rw [hc]; rfl, fun h tail hc => ⟨fun hn => ?_, ?_⟩, fun hc hr => ?_, fun hc => by rw [hc]⟩
  · have hh : isHeader h = false := Bool.eq_false_iff.mpr fun hh => by
      obtain ⟨idx, ap, dir, he⟩ := (isHeader_iff_headerTable h).mp hh
      exact hn idx ap dir he
    rw [hc]
    exact runWord_of_not_header h tail _ hh
  · rintro idx ap rfl hlen
    rw [hc]
    simp only [runWord, decode_of_takePayload_none idx ap tail ((takePayload_eq_none_iff tail).mpr hlen)]
  · rw [hc]
    simp only [runSend, State.setCommands_req, hr]

end Sys2Proof.Machine
end

section
/-! PROOFS. The request codec family (40_request_codec.md R110 to R121): the bits of a header and their weight, what construction makes
of its operands, how a request instruction runs, and the run of a Request whose calls return. -/

namespace Sys2Proof.Machine

/-! The header's bits and their weight (R112 to R118, R120). -/

theorem headerOf_toNat (idx : Index) (ap : Bool) (dir : Direction) :
    (headerOf idx ap dir).toNat = 1 + 2 * ap.toNat + 4 * dir.toBit.toNat + 8 * (idx.getLsbD 0).toNat
      + 16 * (idx.getLsbD 1).toNat + 32 * (headerParity idx ap dir).toNat + 0 * 64 + 128 := by
  have ha := ap.toNat_le
  have hd := dir.toBit.toNat_le
  have h0 := (idx.getLsbD 0).toNat_le
  have h1 := (idx.getLsbD 1).toNat_le
  have hp := (headerParity idx ap dir).toNat_le
  rw [headerOf, BitVec.toNat_ofNat, Nat.mod_eq_of_lt (by omega)]

/-- The weighted sum of R118 has no carries: each of its terms is a bit of its own. -/
theorem headerOf_eq_or (idx : Index) (ap : Bool) (dir : Direction) :
    headerOf idx ap dir = 0x81#8 ||| (BitVec.ofBool ap).zeroExtend 8 <<< 1 ||| (BitVec.ofBool dir.toBit).zeroExtend 8 <<< 2
      ||| idx.zeroExtend 8 <<< 3 ||| (BitVec.ofBool (headerParity idx ap dir)).zeroExtend 8 <<< 5 := by
  cases dir <;> cases ap <;> revert idx <;> decide

/-- Settles O3: the sum fits in eight bits, its terms are disjoint bits, and its 16 values are the table. -/
theorem headerClosedForm : Obligations.HeaderClosedForm := fun idx ap dir =>
  ⟨headerOf_toNat idx ap dir, headerOf_eq_or idx ap dir, headerOf_eq_table dir ap idx⟩

/-- Every bit of a header but its parity (R112 to R115, R117). -/
theorem headerOf_getLsbD (idx : Index) (ap : Bool) (dir : Direction) :
    (headerOf idx ap dir).getLsbD 0 = true ∧ (headerOf idx ap dir).getLsbD 1 = ap ∧
    (headerOf idx ap dir).getLsbD 2 = dir.toBit ∧ (headerOf idx ap dir).getLsbD 3 = idx.getLsbD 0 ∧
    (headerOf idx ap dir).getLsbD 4 = idx.getLsbD 1 ∧ (headerOf idx ap dir).getLsbD 6 = false ∧
    (headerOf idx ap dir).getLsbD 7 = true := by
  cases dir <;> cases ap <;> revert idx <;> decide

/-- Construction keeps the port and the direction, masks the index and computes the header from them (R110, R111, R121). -/
theorem buildRequest_fields (n : Nat) (ap : Bool) (dir : Direction) (p : Option Word) (r : Request)
    (h : buildRequest n ap dir p = some r) :
    r.idx = maskIndex n ∧ r.ap = ap ∧ r.dir = dir ∧ r.payload = (if dir = .write then p else none) ∧
      r.header = headerOf (maskIndex n) ap dir := by
  cases dir with
  | read =>
    cases h
    exact ⟨rfl, rfl, rfl, rfl, rfl⟩
  | write =>
    cases p with
    | none => cases h
    | some w =>
      cases h
      exact ⟨rfl, rfl, rfl, rfl, rfl⟩

theorem maskIndex_getLsbD (n i : Nat) (hi : i < 2) : (maskIndex n).getLsbD i = n.testBit i := by
  rw [maskIndex, BitVec.getLsbD_ofNat, decide_eq_true hi, Bool.true_and]

/-- The XOR of four bits is the parity of how many of them are set. -/
theorem toNat_xor_four (a b c d : Bool) : (a ^^ b ^^ c ^^ d).toNat = (a.toNat + b.toNat + c.toNat + d.toNat) % 2 := by
  revert a b c d
  decide

/-- Settles O2: the bits of the closed form, read back as the operands and as the fields of REQ; R84's test gives bit 5. -/
theorem headerBitsOfBuiltRequest : Obligations.HeaderBitsOfBuiltRequest := by
  intro n ap dir p r h
  obtain ⟨-, h5⟩ := (isHeader_iff r.header).mp (isHeader_of_built r (buildRequest_built n ap dir p r h))
  obtain ⟨hidx, hap, hdir, -, hhdr⟩ := buildRequest_fields n ap dir p r h
  obtain ⟨b0, b1, b2, b3, b4, b6, b7⟩ := headerOf_getLsbD (maskIndex n) ap dir
  rw [← hhdr] at b0 b1 b2 b3 b4 b6 b7
  have toBit_eq : dir.toBit = (dir == .read) := by cases dir <;> rfl
  refine ⟨b0, ⟨b1, b1.trans hap.symm⟩, ⟨b2.trans toBit_eq, by rw [b2, hdir]⟩, ⟨?_, by rw [b3, hidx]⟩, ⟨?_, by rw [b4, hidx]⟩,
    ?_, h5, b6, b7⟩
  · rw [b3, maskIndex_getLsbD n 0 (by decide)]
  · rw [b4, maskIndex_getLsbD n 1 (by decide)]
  · rw [h5, toNat_xor_four]

theorem popcount_bitsOf_succ (v n : Nat) : popcount (bitsOf v (n + 1)) = v % 2 + popcount (bitsOf (v / 2) n) := by
  rw [popcount, bitsOf_succ, List.count_cons, Nat.add_comm, popcount, Nat.testBit_zero]
  rcases Nat.mod_two_eq_zero_or_one v with h | h <;> simp [h]

/-- Flipping bits changes the weight's parity by the number of flips. -/
theorem popcount_bitsOf_xor (a b n : Nat) :
    popcount (bitsOf (a ^^^ b) n) % 2 = (popcount (bitsOf a n) + popcount (bitsOf b n)) % 2 := by
  induction n generalizing a b with
  | zero => rfl
  | succ n ih =>
    have hlow : (a ^^^ b) % 2 = (a + b) % 2 := Nat.xor_mod_two_eq
    have hrest := ih (a / 2) (b / 2)
    simp only [popcount_bitsOf_succ, Nat.xor_div_two]
    omega

/-- Header bits 1 to 5 of a byte, as bits in order. -/
theorem bitsOf_protected (h : Byte) :
    bitsOf (h.extractLsb' 1 5).toNat 5 = [h.getLsbD 1, h.getLsbD 2, h.getLsbD 3, h.getLsbD 4, h.getLsbD 5] := by
  have bit : ∀ i ∈ List.range 5, (h.extractLsb' 1 5).toNat.testBit i = h.getLsbD (1 + i) := fun i hi => by
    rw [BitVec.testBit_toNat, BitVec.getLsbD_extractLsb', decide_eq_true (List.mem_range.mp hi), Bool.true_and]
  exact List.map_congr_left bit

/-- The header parity makes the weight of the protected field and itself even (R116, R120). -/
theorem popcount_protected_even (h : Byte) (hh : isHeader h = true) :
    popcount (bitsOf (h.extractLsb' 1 5).toNat 5) % 2 = 0 := by
  obtain ⟨-, h5⟩ := (isHeader_iff h).mp hh
  have even : ∀ a b c d : Bool, popcount [a, b, c, d, a ^^ b ^^ c ^^ d] % 2 = 0 := by decide
  rw [bitsOf_protected, h5]
  exact even _ _ _ _

/-- Settles O5: the five bits of a built header have even weight, and flips add their number to it modulo 2. -/
theorem headerParityDetectsOddFlips : Obligations.HeaderParityDetectsOddFlips := by
  intro n ap dir p r h
  have heven := popcount_protected_even r.header (isHeader_of_built r (buildRequest_built n ap dir p r h))
  refine ⟨heven, fun m => ?_⟩
  rw [BitVec.toNat_xor, popcount_bitsOf_xor, Nat.add_mod, heven, Nat.zero_add, Nat.mod_mod]

/-! Construction (R110, R111, R119). -/

/-- Settles O1: construction gives the Request of the table, its index masked. -/
theorem constructionFollowsTheHeaderTable : Obligations.ConstructionFollowsTheHeaderTable :=
  ⟨fun n ap p => maskIndex_eq_mod n ▸ buildRequest_read n ap p, fun n ap w => maskIndex_eq_mod n ▸ buildRequest_write n ap w,
    fun _ _ => rfl⟩

/-- The built Requests are those of the table (R26, R83). -/
theorem eq_table_of_built (r : Request) (h : r.built = true) :
    r = tableRead r.idx r.ap ∨ ∃ w, r = tableWrite r.idx r.ap w := by
  rcases r with ⟨idx, ap, dir, payload, header⟩
  cases dir <;> cases payload <;> simp [Request.built, headerOf_eq_table] at h <;> subst h
  · exact .inr ⟨_, rfl⟩
  · exact .inl rfl

/-- A Request is a built one exactly if an instruction stands for it: then an exact row does. -/
theorem built_iff_requestOf (r : Request) : r.built = true ↔ ∃ i, requestOf i = some r := by
  refine ⟨fun h => ?_, fun ⟨i, hi⟩ => requestOf_built i r hi⟩
  rcases eq_table_of_built r h with hr | ⟨w, hr⟩ <;> rw [hr]
  · obtain ⟨-, hi, -⟩ := readInstr_row r.idx r.ap
    exact ⟨_, hi⟩
  · obtain ⟨-, hi, -⟩ := writeInstr_row r.idx r.ap w
    exact ⟨_, hi⟩

/-! What an instruction stands for is all that its run depends on. -/

/-- An access depends on its operands through construction alone (R110). -/
theorem access_congr (n m : Nat) (ap ap' : Bool) (dir dir' : Direction) (p q : Option Word) (s : State)
    (h : buildRequest n ap dir p = buildRequest m ap' dir' q) : access n ap dir p s = access m ap' dir' q s := by
  simp only [access, h]

theorem exec_congr (i j : Instr) (s : State) (hr : requestOf i = requestOf j) (ha : i.ackPattern = j.ackPattern) :
    exec i s = exec j s := by
  rcases exec_forms i with ⟨n, ap, dir, p, hri, hai, hi⟩ | ⟨a, -, hai, hi⟩ <;>
    rcases exec_forms j with ⟨m, ap', dir', q, hrj, haj, hj⟩ | ⟨b, -, haj, hj⟩ <;>
    rw [hai, haj] at ha
  · rw [hi, hj, access_congr n m ap ap' dir dir' p q s (hri.symm.trans (hr.trans hrj))]
  · cases ha
  · cases ha
  · cases ha
    rw [hi, hj]

/-- Settles O10: the exact row stands for the same Request, or the same ack pattern. -/
theorem genericRequestRunsAsItsExactRow : Obligations.GenericRequestRunsAsItsExactRow := by
  intro i s
  obtain ⟨hr, ha⟩ := exact_stands_for i
  exact exec_congr i i.exact s hr.symm ha.symm

/-! The caller's requests, builds and sends in IDLE (R110, R119, R121). -/

theorem access_write_none (n : Nat) (ap : Bool) (s : State) : access n ap .write none s = .refused .writeWithoutPayload := rfl

/-- Settles O11: construction refuses a Write without a payload and drops a Read's, so neither reaches the engine. -/
theorem payloadGoesWithWritesOnly : Obligations.PayloadGoesWithWritesOnly := by
  refine ⟨fun n s => ⟨access_write_none n false s, access_write_none n true s⟩,
    fun n w s => ⟨exec_congr _ _ s rfl rfl, exec_congr _ _ s rfl rfl⟩, fun n ap rest s hp hc => ?_, fun n ap dir p r h => ?_⟩
  · rw [step_of_idle s hp, idleStep]
    rcases hc with hc | hc <;> rw [hc]
    · cases ap
      · exact access_write_none n false (s.setCommands rest)
      · exact access_write_none n true (s.setCommands rest)
    · rfl
  · obtain ⟨-, -, -, hpay, -⟩ := buildRequest_fields n ap dir p r h
    exact hpay

/-- Settles O45: `step` of an IDLE engine is `idleStep`, whose arm for a build is `runBuild`. -/
theorem buildOnlyLatchesTheRequest : Obligations.BuildOnlyLatchesTheRequest := by
  intro s n ap dir p r cs hp hc hb
  rw [step_of_idle s hp, idleStep, hc]
  simp only [runBuild, hb]
  rfl

/-- The caller's `send` is the engine's, on the list without it (R140). -/
theorem step_send (s : State) (r : Request) (cs : List Command) (hp : s.eng.phase = .idle) (hr : s.req = some r)
    (hc : s.caller.commands = .send :: cs) : step s = sendBuilt (s.setCommands cs) := by
  rw [step_of_idle s hp, idleStep, hc]
  simp only [runSend, State.setCommands_req, hr]

/-- The caller's `send` is the run of any instruction that stands for the Request it holds (R121). -/
theorem step_send_eq_exec (s : State) (r : Request) (cs : List Command) (hp : s.eng.phase = .idle) (hr : s.req = some r)
    (hc : s.caller.commands = .send :: cs) (i : Instr) (hi : requestOf i = some r) : step s = exec i (s.setCommands cs) := by
  rw [step_send s r cs hp hr hc, exec_of_requestOf (s.setCommands cs) i r hi hp, ← hr]
  rfl

/-! A phase whose call returns (R143 to R155). -/

/-- How far a transaction of `r` has come between two calls: its phase, the buffer so far, the answers still coming. -/
structure State.AtPhase (r : Request) (p : Phase) (out : List Bool) (answers : List Answer) (s : State) : Prop where
  inv : s.Inv
  req : s.req = some r
  phase : s.eng.phase = p
  mem_out : s.tr.mem.out = out
  answers : s.tr.answers = answers
  progress : s.tr.progress = Progress.none

/-- What follows a call that has returned goes to phase `p` and touches neither REQ nor the transport. -/
def GoesTo (p : Phase) (go : Nat → State → State) : Prop :=
  ∀ v s, (go v s).tr = s.tr ∧ (go v s).req = s.req ∧ (go v s).eng.phase = p

section
variable {s : State} {r : Request} {rest : List Answer} {p p' : Phase} {go : Nat → State → State}

/-- What a phase goes on to if its call returns `t`. -/
theorem atPhase_of_returned (h : s.Inv) (hr : s.req = some r) {c : CallResult} {v : Nat} {t : Transport} {out : List Bool}
    (ht : tick s = .next (s.afterCall c go)) (hc : c = .returned v t) (hout : t.mem.out = out) (ha : t.answers = rest)
    (hp : t.progress = Progress.none) (hgo : GoesTo p' go) : ∃ s', tick s = .next s' ∧ s'.AtPhase r p' out rest := by
  rw [hc, State.afterCall_returned] at ht
  obtain ⟨s', hs, hinv⟩ := tick_keepsInv s h
  cases ht.symm.trans hs
  obtain ⟨htr, hreq, hph⟩ := hgo v (s.setTr t)
  refine ⟨_, ht, hinv, hreq.trans hr, hph, ?_, ?_, ?_⟩ <;> rw [htr, State.setTr_tr]
  · exact hout
  · exact ha
  · exact hp

/-- A queue phase has then queued what its call had still to place. -/
theorem atPhase_of_queue (h : s.Inv) (hr : s.req = some r) (ha : s.tr.answers = .returns :: rest) (v n : Nat)
    (hbits : r.phaseBits p = bitsOf v n) (ht : tick s = .next (s.afterCall (queueCall v n s.tr) go)) (hgo : GoesTo p' go) :
    ∃ s', tick s = .next s' ∧
      s'.AtPhase r p' (s.tr.mem.out ++ (r.phaseBits p).drop s.tr.progress.queued) rest :=
  atPhase_of_returned h hr ht (queueCall_returns v n s.tr rest ha) (by simp [hbits]) rfl rfl hgo

/-- A capture phase has queued nothing. -/
theorem atPhase_of_capture (h : s.Inv) (hr : s.req = some r) (ha : s.tr.answers = .returns :: rest) (off n : Nat)
    (hq : off + n ≤ s.tr.mem.out.length) (hbits : r.phaseBits p = [])
    (ht : tick s = .next (s.afterCall (captureCall off n s.tr) go)) (hgo : GoesTo p' go) :
    ∃ s', tick s = .next s' ∧
      s'.AtPhase r p' (s.tr.mem.out ++ (r.phaseBits p).drop s.tr.progress.queued) rest :=
  atPhase_of_returned h hr ht (captureCall_returns off n s.tr rest ha hq) (by simp [hbits]) (by simp) rfl hgo

end

/-- Each phase with a call queues the positions of its row and goes on to the next. -/
theorem tick_returns (s : State) (r : Request) (rest : List Answer) (h : s.Inv) (hr : s.req = some r)
    (ha : s.tr.answers = .returns :: rest) (hc : s.eng.phase.calls = true) :
    ∃ s', tick s = .next s' ∧ s'.AtPhase r (successor r.dir s.eng.phase)
      (s.tr.mem.out ++ (r.phaseBits s.eng.phase).drop s.tr.progress.queued) rest := by
  obtain ⟨-, hb, hp, -, -⟩ := id h
  obtain ⟨d, p, hv⟩ := dataPhaseValues_of_built r (hb r hr)
  obtain ⟨hdata, hpar⟩ := phaseBits_of_dataPhaseValues r d p (hb r hr) hv
  cases hph : s.eng.phase <;> simp only [State.PhaseInv, hph] at hp hc
  case idle | classify | done | failed => cases hc
  case qHdr => exact atPhase_of_queue h hr ha _ _ rfl (tick_qHdr s r hph hr) fun _ _ => ⟨rfl, rfl, rfl⟩
  case qAck => exact atPhase_of_queue h hr ha _ _ rfl (tick_qAck s hph) fun _ _ => ⟨rfl, rfl, rfl⟩
  case qData => exact atPhase_of_queue h hr ha _ _ hdata (tick_qData s r d p hph hr hv) fun _ _ => ⟨rfl, rfl, rfl⟩
  case qPar => exact atPhase_of_queue h hr ha _ _ hpar (tick_qPar s r d p hph hr hv) fun _ _ => ⟨rfl, rfl, rfl⟩
  case cAck =>
    obtain ⟨-, -, off, ho, hl⟩ := hp
    have hafter : afterAck r.dir = successor r.dir .cAck := by cases r.dir <;> rfl
    exact atPhase_of_capture h hr ha _ _ (by omega) rfl (tick_cAck s r off hph hr ho) fun _ _ => ⟨rfl, rfl, hafter⟩
  case cData =>
    obtain ⟨-, -, -, off, ho, hl⟩ := hp
    exact atPhase_of_capture h hr ha _ _ (by omega) rfl (tick_cData s off hph ho) fun _ _ => ⟨rfl, rfl, rfl⟩
  case cPar =>
    obtain ⟨-, -, -, -, off, ho, hl⟩ := hp
    exact atPhase_of_capture h hr ha _ _ (by omega) rfl (tick_cPar s off hph ho) fun _ _ => ⟨rfl, rfl, rfl⟩

/-- In the invariant CLASSIFY presents a Response (R156). -/
theorem tick_presents (s : State) (h : s.Inv) (hp : s.eng.phase = .classify) : ∃ resp, tick s = .next (s.present resp) := by
  obtain ⟨-, -, hph, -, -⟩ := h
  simp only [State.PhaseInv, hp] at hph
  obtain ⟨-, ha, r, hr, hrd⟩ := hph
  obtain ⟨a, ha⟩ := Option.isSome_iff_exists.mp ha
  cases hd : r.dir with
  | write => exact ⟨_, tick_classify_write s r a hp hr hd ha⟩
  | read =>
    obtain ⟨hdata, hpar⟩ := hrd hd
    obtain ⟨d, hdata⟩ := Option.isSome_iff_exists.mp hdata
    obtain ⟨p, hpar⟩ := Option.isSome_iff_exists.mp hpar
    exact ⟨_, tick_classify_read s r a d p hp hr hd ha hdata hpar⟩

/-! The run of a Request whose calls return (R121, R142). -/

/-- A phase with a call never follows itself. -/
theorem successor_ne (dir : Direction) (p : Phase) (h : p.calls = true) : successor dir p ≠ p := by
  cases dir <;> cases p <;> simp [successor, Phase.calls] at h ⊢

/-- A run of phases with calls that all return queues the positions of their rows, one row after another. -/
theorem runEngine_returns (k n : Nat) (s : State) (r : Request) (p : Phase) (out : List Bool) (rest : List Answer)
    (h : s.AtPhase r p out (List.replicate n .returns ++ rest))
    (hc : ∀ q ∈ List.iterate (successor r.dir) p n, q.calls = true) :
    ∃ s', runEngine (k + n) s = runEngine k s' ∧ s'.AtPhase r ((successor r.dir)^[n] p)
      (out ++ (List.iterate (successor r.dir) p n).flatMap r.phaseBits) rest := by
  induction n generalizing s p out with
  | zero => exact ⟨s, rfl, by simpa [List.iterate] using h⟩
  | succ n ih =>
    obtain ⟨hinv, hreq, rfl, rfl, hans, hprog⟩ := h
    simp only [List.iterate, List.forall_mem_cons] at hc
    obtain ⟨hcall, hcalls⟩ := hc
    obtain ⟨s₁, ht, h₁⟩ := tick_returns s r _ hinv hreq hans hcall
    rw [hprog, Progress.none_queued, List.drop_zero] at h₁
    obtain ⟨s', hrun, h'⟩ := ih s₁ _ _ h₁ hcalls
    refine ⟨s', ?_, by simpa [List.iterate] using h'⟩
    rw [← Nat.add_assoc, runEngine_move _ s s₁ ht (h₁.phase ▸ successor_ne r.dir _ hcall), hrun]

theorem callPhases_eq_iterate (dir : Direction) : callPhases dir = List.iterate (successor dir) .qHdr (callsOf dir) := by
  cases dir <;> rfl

theorem successor_iterate_calls (dir : Direction) : (successor dir)^[callsOf dir] .qHdr = .classify := by
  cases dir <;> rfl

theorem callPhases_calls (dir : Direction) : ∀ p ∈ callPhases dir, p.calls = true := by
  cases dir <;> decide

/-- The rows of the phases, one after another, are the frame (R86 to R88, R143). -/
theorem flatMap_phaseBits (r : Request) (h : r.built = true) : (callPhases r.dir).flatMap r.phaseBits = frameBits r := by
  rcases eq_table_of_built r h with hr | ⟨w, hr⟩ <;> rw [hr]
  · have hreserved : List.replicate 3 false ++ (bitsOf 0 32 ++ [parity32 0#32]) = List.replicate 36 false := by decide
    simpa [callPhases, tableRead, Request.phaseBits, frameBits, frameTail] using hreserved
  · simp [callPhases, tableWrite, Request.phaseBits, frameBits, frameTail]

/-- `send` of a built Request with its calls returning ends in DONE with a Response, its frame at the end of the buffer. -/
theorem sendBuilt_returns (s : State) (r : Request) (rest : List Answer) (hw : s.tr.mem.wf = true) (hr : s.req = some r)
    (hb : r.built = true) (ha : s.tr.answers = List.replicate (callsOf r.dir) .returns ++ rest) :
    ∃ s', sendBuilt s = .next s' ∧ s'.eng.phase = .done ∧ s'.response.isSome = true ∧ s'.req = some r ∧
      s'.tr.mem.out = s.tr.mem.out ++ frameBits r ∧ s'.tr.answers = rest := by
  obtain ⟨k, hk⟩ : ∃ k, enginePhases = k + 1 + callsOf r.dir := by
    cases r.dir
    · exact ⟨3, rfl⟩
    · exact ⟨1, rfl⟩
  have hstart : s.begin.AtPhase r .qHdr s.tr.mem.out (List.replicate (callsOf r.dir) .returns ++ rest) :=
    ⟨s.begin_inv r hw hr hb, hr, rfl, rfl, ha, rfl⟩
  obtain ⟨s₁, hrun, h₁⟩ := runEngine_returns (k + 1) _ s.begin r .qHdr _ rest hstart
    (callPhases_eq_iterate r.dir ▸ callPhases_calls r.dir)
  rw [successor_iterate_calls, ← callPhases_eq_iterate, flatMap_phaseBits r hb] at h₁
  obtain ⟨resp, ht⟩ := tick_presents s₁ h₁.inv h₁.phase
  refine ⟨s₁.present resp, ?_, rfl, rfl, h₁.req, h₁.mem_out, h₁.answers⟩
  rw [sendBuilt, hk, hrun, runEngine_move k s₁ _ ht (by simp [h₁.phase]), runEngine_waits k _ (.inr (.inl rfl))]

/-- Settles O44: a `send` again runs as the Request's instruction, and its frame is that of the Request alone. -/
theorem resendingQueuesTheSameFrame : Obligations.ResendingQueuesTheSameFrame := by
  refine ⟨step_send_eq_exec, built_iff_requestOf, fun s r cs rest hp hr hb hw hc ha => ?_⟩
  rw [step_send s r cs hp hr hc]
  exact sendBuilt_returns (s.setCommands cs) r rest hw hr hb ha

end Sys2Proof.Machine
end

section
/-! PROOFS. The transaction engine family (41_transaction_engine.md R140 to R166): what a phase does and leaves unchanged, the whole run
of a Read and of a Write, and that the phase machine and the one function `send` are the same. -/

namespace Sys2Proof.Machine

/-! What a phase can do (R143, R144). -/

/-- The call a phase makes: in a queue phase a `Queue` of its row's width, in a capture phase a `Capture`. -/
def Phase.Makes (p : Phase) (t : Transport) (c : CallResult) : Prop :=
  (p.captures = false ∧ ∃ v, c = queueCall v p.queueWidth t) ∨ (p.captures = true ∧ ∃ off n, c = captureCall off n t)

/-- What follows a returned call of phase `p` writes, beside the phase register, the latch of `p` alone. -/
structure FillsLatchOf (p : Phase) (go : Nat → State → State) : Prop where
  caller : ∀ v s, (go v s).caller = s.caller
  response : ∀ v s, (go v s).response = s.response
  err : ∀ v s, (go v s).eng.err = s.eng.err
  ackOff : ∀ v s, p ≠ .qAck → (go v s).eng.ackOff = s.eng.ackOff
  ack : ∀ v s, p ≠ .cAck → (go v s).eng.ack = s.eng.ack
  data : ∀ v s, p ≠ .cData → (go v s).eng.data = s.eng.data
  par : ∀ v s, p ≠ .cPar → (go v s).eng.par = s.eng.par

/-- A phase `p` with a transport call: the call of its row and, if it returns, the phase's own latch and the next phase. -/
structure State.PhaseCall (s : State) (p : Phase) (c : CallResult) (go : Nat → State → State) (p' : Phase) : Prop where
  calls : p.calls = true
  makes : p.Makes s.tr c
  goes : GoesTo p' go
  fills : FillsLatchOf p go
  running : p' ≠ .failed
  follows : ∀ r, s.req = some r → p' = successor r.dir p

theorem afterAck_eq_successor (dir : Direction) : afterAck dir = successor dir .cAck := by cases dir <;> rfl

/-- CLASSIFY answers a next state only by presenting a Response (R156). -/
theorem classifyUnder_next (a : AckBits) (s s' : State) (h : classifyUnder a s = .next s') : ∃ resp, s' = s.present resp := by
  unfold classifyUnder at h
  split at h
  · cases h
  · split at h
    · cases h
      exact ⟨_, rfl⟩
    · split at h
      · cases h
      · cases h
      · cases h
        exact ⟨_, rfl⟩

/-- All that a phase with a next state can do: wait for the caller, present a Response, or make its transport call. -/
theorem tick_cases (s s' : State) (h : tick s = .next s') :
    ((s.eng.phase = .idle ∨ s.eng.phase = .done ∨ s.eng.phase = .failed) ∧ s' = s) ∨
    (s.eng.phase = .classify ∧ ∃ resp, s' = s.present resp) ∨
    (∃ c go p', s' = s.afterCall c go ∧ s.PhaseCall s.eng.phase c go p') := by
  have waits (hp : s.eng.phase = .idle ∨ s.eng.phase = .done ∨ s.eng.phase = .failed) : s' = s := by
    cases (tick_waits s hp).symm.trans h
    rfl
  cases hph : s.eng.phase
  case idle => exact .inl ⟨.inl rfl, waits (.inl hph)⟩
  case done => exact .inl ⟨.inr (.inl rfl), waits (.inr (.inl hph))⟩
  case failed => exact .inl ⟨.inr (.inr rfl), waits (.inr (.inr hph))⟩
  case classify =>
    cases ha : s.eng.ack <;> simp only [tick, hph, phaseClassify, ha] at h
    · cases h
    · exact .inr (.inl ⟨rfl, classifyUnder_next _ s s' h⟩)
  all_goals refine .inr (.inr ?_)
  case qHdr =>
    cases hr : s.req with
    | none => simp [tick, hph, phaseQHdr, hr] at h
    | some r =>
      cases (tick_qHdr s r hph hr).symm.trans h
      exact ⟨_, _, .qAck, rfl, rfl, .inl ⟨rfl, _, rfl⟩, fun _ _ => ⟨rfl, rfl, rfl⟩, by constructor <;> simp, nofun,
        fun _ _ => rfl⟩
  case qAck =>
    cases (tick_qAck s hph).symm.trans h
    exact ⟨_, _, .qData, rfl, rfl, .inl ⟨rfl, _, rfl⟩, fun _ _ => ⟨rfl, rfl, rfl⟩, by constructor <;> simp, nofun,
      fun _ _ => rfl⟩
  case qData =>
    cases hr : s.req with
    | none => simp [tick, hph, phaseQData, hr] at h
    | some r =>
      rcases hv : dataPhaseValues r with _ | ⟨d, p⟩
      · simp [tick, hph, phaseQData, hr, hv] at h
      · cases (tick_qData s r d p hph hr hv).symm.trans h
        exact ⟨_, _, .qPar, rfl, rfl, .inl ⟨rfl, _, rfl⟩, fun _ _ => ⟨rfl, rfl, rfl⟩, by constructor <;> simp, nofun,
          fun _ _ => rfl⟩
  case qPar =>
    cases hr : s.req with
    | none => simp [tick, hph, phaseQPar, hr] at h
    | some r =>
      rcases hv : dataPhaseValues r with _ | ⟨d, p⟩
      · simp [tick, hph, phaseQPar, hr, hv] at h
      · cases (tick_qPar s r d p hph hr hv).symm.trans h
        exact ⟨_, _, .cAck, rfl, rfl, .inl ⟨rfl, _, rfl⟩, fun _ _ => ⟨rfl, rfl, rfl⟩, by constructor <;> simp, nofun,
          fun _ _ => rfl⟩
  case cAck =>
    cases hr : s.req with
    | none => simp [tick, hph, phaseCAck, hr] at h
    | some r =>
      cases ho : s.eng.ackOff with
      | none => simp [tick, hph, phaseCAck, hr, ho] at h
      | some off =>
        cases (tick_cAck s r off hph hr ho).symm.trans h
        refine ⟨_, _, afterAck r.dir, rfl, rfl, .inr ⟨rfl, _, _, rfl⟩, fun _ _ => ⟨rfl, rfl, rfl⟩, by constructor <;> simp,
          afterAck_ne_failed r.dir, fun q hq => ?_⟩
        cases hr.symm.trans hq
        exact afterAck_eq_successor r.dir
  case cData =>
    cases ho : s.eng.ackOff with
    | none => simp [tick, hph, phaseCData, ho] at h
    | some off =>
      cases (tick_cData s off hph ho).symm.trans h
      exact ⟨_, _, .cPar, rfl, rfl, .inr ⟨rfl, _, _, rfl⟩, fun _ _ => ⟨rfl, rfl, rfl⟩, by constructor <;> simp, nofun,
        fun _ _ => rfl⟩
  case cPar =>
    cases ho : s.eng.ackOff with
    | none => simp [tick, hph, phaseCPar, ho] at h
    | some off =>
      cases (tick_cPar s off hph ho).symm.trans h
      exact ⟨_, _, .classify, rfl, rfl, .inr ⟨rfl, _, _, rfl⟩, fun _ _ => ⟨rfl, rfl, rfl⟩, by constructor <;> simp, nofun,
        fun _ _ => rfl⟩

section
variable {s : State} {p p' : Phase} {c : CallResult} {go : Nat → State → State}

/-- The transport, REQ and the caller after a phase's call, however it ends. -/
theorem State.PhaseCall.afterCall_kept (h : s.PhaseCall p c go p') :
    (s.afterCall c go).tr = c.after ∧ (s.afterCall c go).req = s.req ∧ (s.afterCall c go).caller = s.caller := by
  cases c with
  | returned v t =>
    obtain ⟨htr, hreq, -⟩ := h.goes v (s.setTr t)
    exact ⟨htr, hreq, h.fills.caller v _⟩
  | failed e t => exact ⟨rfl, rfl, rfl⟩
  | waiting t => exact ⟨rfl, rfl, rfl⟩

/-- A phase's call ends in the next phase, in FAILED without a Response, or in the same phase (R144). -/
theorem State.PhaseCall.afterCall_phase (h : s.PhaseCall p c go p') :
    ((s.afterCall c go).eng.phase = p' ∧ (s.afterCall c go).response = s.response) ∨
    ((s.afterCall c go).eng.phase = .failed ∧ (s.afterCall c go).response = none) ∨
    ((s.afterCall c go).eng.phase = s.eng.phase ∧ (s.afterCall c go).response = s.response) := by
  cases c with
  | returned v t =>
    obtain ⟨-, -, hph⟩ := h.goes v (s.setTr t)
    exact .inl ⟨hph, h.fills.response v _⟩
  | failed e t => exact .inr (.inl ⟨rfl, rfl⟩)
  | waiting t => exact .inr (.inr ⟨rfl, rfl⟩)

/-- The latches after a phase's call: only the phase's own is written, and `ENG.err` by a failure alone. -/
theorem State.PhaseCall.afterCall_latches (h : s.PhaseCall p c go p') :
    (p ≠ .qAck → (s.afterCall c go).eng.ackOff = s.eng.ackOff) ∧ (p ≠ .cAck → (s.afterCall c go).eng.ack = s.eng.ack) ∧
    (p ≠ .cData → (s.afterCall c go).eng.data = s.eng.data) ∧ (p ≠ .cPar → (s.afterCall c go).eng.par = s.eng.par) ∧
    ((s.afterCall c go).eng.phase ≠ .failed → (s.afterCall c go).eng.err = s.eng.err) := by
  cases c with
  | returned v t =>
    exact ⟨h.fills.ackOff v _, h.fills.ack v _, h.fills.data v _, h.fills.par v _, fun _ => h.fills.err v _⟩
  | failed e t => exact ⟨fun _ => rfl, fun _ => rfl, fun _ => rfl, fun _ => rfl, fun hf => absurd rfl hf⟩
  | waiting t => exact ⟨fun _ => rfl, fun _ => rfl, fun _ => rfl, fun _ => rfl, fun _ => rfl⟩

end

/-- What a phase's call does to the transport: it grows by at most the row's width, and only a capture uses the wire (R52, R56). -/
theorem Phase.Makes.frame {p : Phase} {t : Transport} {c : CallResult} (h : p.Makes t c) :
    t.Grew c.after ∧ c.after.mem.out.length ≤ t.mem.out.length + p.queueWidth ∧
      (p.captures = false → c.after.mem.shifted = t.mem.shifted ∧ c.after.wire = t.wire) := by
  rcases h with ⟨-, v, rfl⟩ | ⟨hc, off, n, rfl⟩
  · obtain ⟨hlen, hframe⟩ := queueCall_frame v p.queueWidth t
    exact ⟨queueCall_grew v _ t, hlen, fun _ => hframe⟩
  · exact ⟨captureCall_grew off n t, by simp [captureCall_frame], fun hn => by simp [hc] at hn⟩

/-- A queued position reads the same when the buffer has grown. -/
theorem Memory.readOut_of_prefix (m m' : Memory) (p : Nat) (h : m.out <+: m'.out) (hp : p < m.out.length) :
    m'.readOut p = m.readOut p := by
  obtain ⟨tail, ht⟩ := h
  rw [Memory.readOut, Memory.readOut, ← ht, List.getElem?_append_left hp]

/-- What every phase keeps: REQ and the caller; the transport only grows, by at most the positions of the phase's row. -/
theorem tick_kept (s s' : State) (h : tick s = .next s') :
    s'.req = s.req ∧ s'.caller = s.caller ∧ s.tr.Grew s'.tr ∧
      s'.tr.mem.out.length ≤ s.tr.mem.out.length + s.eng.phase.queueWidth := by
  rcases tick_cases s s' h with ⟨-, rfl⟩ | ⟨-, resp, rfl⟩ | ⟨c, go, p', rfl, hcall⟩
  · exact ⟨rfl, rfl, .refl _, Nat.le_add_right ..⟩
  · exact ⟨rfl, rfl, .refl _, Nat.le_add_right ..⟩
  · obtain ⟨htr, hreq, hcaller⟩ := hcall.afterCall_kept
    obtain ⟨hgrew, hlen, -⟩ := hcall.makes.frame
    exact ⟨hreq, hcaller, htr ▸ hgrew, htr ▸ hlen⟩

/-- Settles O26: each of the three things a phase can do ends in one of the three ways. -/
theorem phasesFollowTheTable : Obligations.PhasesFollowTheTable := by
  intro s s' r hr h
  rcases tick_cases s s' h with ⟨hp, rfl⟩ | ⟨hp, resp, rfl⟩ | ⟨c, go, p', rfl, hcall⟩
  · rcases hp with hp | hp | hp <;> exact .inl (by rw [hp]; rfl)
  · exact .inl (by rw [hp]; rfl)
  · rcases hcall.afterCall_phase with ⟨hph, -⟩ | ⟨hph, -⟩ | ⟨hph, -⟩
    · exact .inl (hph.trans (hcall.follows r hr))
    · exact .inr ⟨hcall.calls, .inl hph⟩
    · exact .inr ⟨hcall.calls, .inr hph⟩

/-- Settles O30: what `tick_kept` says, and for the rest a phase without a call or the frame of the phase's call. -/
theorem phaseFrame : Obligations.PhaseFrame := by
  intro s s' h
  obtain ⟨hreq, hcaller, hgrew, hlen⟩ := tick_kept s s' h
  refine ⟨hreq, hcaller, fun q => Memory.readOut_of_prefix _ _ q hgrew.out, fun q => Memory.readIn_of_prefix _ _ q hgrew.shifted,
    hgrew.out.length_le, hlen, fun h0 => (hgrew.out.eq_of_length_le (by omega)).symm, ?_⟩
  rcases tick_cases s s' h with ⟨hp, rfl⟩ | ⟨hp, resp, rfl⟩ | ⟨c, go, p', rfl, hcall⟩
  · rcases hp with hp | hp | hp <;> simp [hp, Phase.calls]
  · simp [hp, Phase.calls]
  · obtain ⟨htr, -, -⟩ := hcall.afterCall_kept
    obtain ⟨-, -, hwire⟩ := hcall.makes.frame
    refine ⟨htr ▸ hwire, hgrew.wf, hgrew.answers, fun hn => absurd hcall.calls (by simp [hn]), fun _ hn => ?_, fun _ hf => ?_,
      hcall.afterCall_latches⟩
    · rcases hcall.afterCall_phase with ⟨-, hresp⟩ | ⟨hf, -⟩ | ⟨-, hresp⟩
      · exact hresp
      · rcases hn with hn | hn
        · exact absurd hcall.calls (by simp [hn])
        · exact absurd hf hn
      · exact hresp
    · rcases hcall.afterCall_phase with ⟨hph, -⟩ | ⟨-, hresp⟩ | ⟨hph, -⟩
      · exact absurd (hph.symm.trans hf) hcall.running
      · exact hresp
      · exact absurd hcall.calls (by simp [← hph, hf, Phase.calls])

/-! The latches a returned call fills (R148, R153 to R155). -/

theorem tick_keeps_ackOff (s s' : State) (h : tick s = .next s') (hp : s.eng.phase ≠ .qAck) : s'.eng.ackOff = s.eng.ackOff := by
  rcases tick_cases s s' h with ⟨-, rfl⟩ | ⟨-, resp, rfl⟩ | ⟨c, go, p', rfl, hcall⟩
  · rfl
  · rfl
  · obtain ⟨hoff, -⟩ := hcall.afterCall_latches
    exact hoff hp

/-- Settles O27: `tick_returns` for the phase, the buffer and the answers; the latch is the value its call returned. -/
theorem phaseCallsFillTheirLatches : Obligations.PhaseCallsFillTheirLatches := by
  intro s r rest h hr ha hc
  obtain ⟨s', ht, h'⟩ := tick_returns s r rest h hr ha hc
  obtain ⟨-, -, hp, -, -⟩ := id h
  refine ⟨s', ht, h'.phase, h'.answers, h'.mem_out, h'.progress, tick_keeps_ackOff s s' ht, fun hph => ?_, fun hph => ?_,
    fun hph => ?_, fun hph => ?_⟩ <;> simp only [State.PhaseInv, hph] at hp
  · rw [tick_qAck s hph, queueCall_returns _ _ _ rest ha] at ht
    cases ht
    rfl
  · obtain ⟨-, -, off, ho, hl⟩ := hp
    rw [tick_cAck s r off hph hr ho, captureCall_returns _ _ _ rest ha (by omega)] at ht
    cases ht
    exact ⟨off, ho, rfl⟩
  · obtain ⟨-, -, -, off, ho, hl⟩ := hp
    rw [tick_cData s off hph ho, captureCall_returns _ _ _ rest ha (by omega)] at ht
    cases ht
    exact ⟨off, ho, rfl⟩
  · obtain ⟨-, -, -, -, off, ho, hl⟩ := hp
    have hlast := Memory.readIn_eq_testBit_valueAt _ (off + 3 + 32) 1 0 (by decide)
      (Transport.sync_clocked (off + 3 + 32 + 1) { s.tr with answers := rest } hl)
    rw [tick_cPar s off hph ho, captureCall_returns _ _ _ rest ha (by omega)] at ht
    cases ht
    exact ⟨off, ho, hlast.symm⟩

/-! CLASSIFY as the instruction of its pattern, and the return to IDLE (R156, R157). -/

/-- An ack row is `classifyUnder` its pattern in CLASSIFY (R156, R184). -/
theorem exec_of_ackPattern (i : Instr) (a : AckBits) (s : State) (hi : i.ackPattern = some a) (hp : s.eng.phase = .classify) :
    exec i s = classifyUnder a s := by
  rcases exec_forms i with ⟨n, ap, dir, p, -, ha, -⟩ | ⟨b, -, ha, he⟩ <;> cases ha.symm.trans hi
  rw [he, ackRow, if_pos hp]

theorem classifyUnder_write (a : AckBits) (r : Request) (s : State) (hr : s.req = some r) (hd : r.dir = .write) :
    classifyUnder a s = .next (s.present (classifyWrite a)) := by
  simp only [classifyUnder, hr, hd]

theorem classifyUnder_read (a : AckBits) (r : Request) (d : Word) (p : Bool) (s : State) (hr : s.req = some r) (hd : r.dir = .read)
    (hdata : s.eng.data = some d) (hpar : s.eng.par = some p) : classifyUnder a s = .next (s.present (classifyRead a d p)) := by
  simp only [classifyUnder, hr, hd, hdata, hpar]

/-- Settles O33: CLASSIFY under the row's pattern, by the Request's direction. -/
theorem ackPatternCompletes : Obligations.AckPatternCompletes := by
  intro i a r s hi hp hr
  rw [exec_of_ackPattern i a s hi hp]
  exact ⟨classifyUnder_write a r s hr, fun d p => classifyUnder_read a r d p s hr⟩

/-- Without the reset input a step is that of the engine's phase (R231). -/
theorem step_eq_phaseStep (s : State) (h : s.caller.commands.head? ≠ some .reset) : step s = phaseStep s := by
  rcases step_cases s with ⟨rest, hc, -⟩ | hs
  · simp [hc] at h
  · exact hs

/-- Settles O43: the step of CLASSIFY, and the round trip of the pattern's byte. -/
theorem stepRunsTheLatchedAckPattern : Obligations.StepRunsTheLatchedAckPattern := by
  intro s a hp ha hc
  obtain ⟨hbytes, hpattern, hwf, hexact⟩ := ackInstr_row a
  refine ⟨?_, ?_, hpattern⟩
  · rw [step_eq_phaseStep s hc, phaseStep, hp]
    simp only [classifyStep, ha]
  · have hd := roundTrip (ackInstr a) hwf []
    rwa [hbytes, hexact] at hd

/-- Settles O47: `step` in DONE is `doneStep`, whose three arms are the three cases. -/
theorem takingTheResponseReturnsToIdle : Obligations.TakingTheResponseReturnsToIdle := by
  intro s r hp hr
  have hstep (hc : s.caller.commands.head? ≠ some .reset) : step s = doneStep s := by
    rw [step_eq_phaseStep s hc, phaseStep, hp]
  refine ⟨fun hc => ?_, fun cs hc => ?_, fun c cs hc ht hreset => ?_⟩
  · simp only [hstep (by simp [hc]), doneStep, hr, hc]
  · simp only [hstep (by simp [hc]), doneStep, hr, hc]
    rfl
  · have hfinish : doneStep s = .next (s.finish (.response r)) := by
      cases c
      case take => exact absurd rfl ht
      all_goals simp only [doneStep, hr, hc]
    rw [hstep (by simpa [hc] using hreset), hfinish]
    simp only [State.finish, State.deliver, hc]

/-! The frame of a whole request (R65, R86, R159). -/

/-- How many positions a transaction has still to queue from a phase on. -/
def Phase.widthFrom : Phase → Nat
  | .qHdr => 44
  | .qAck => 36
  | .qData => 33
  | .qPar => 1
  | .idle | .cAck | .cData | .cPar | .classify | .done | .failed => 0

/-- Of what is to be queued from a phase on, its own row comes first, then what is to be queued from the next phase on. -/
theorem Phase.widthFrom_successor (dir : Direction) (p : Phase) :
    p.queueWidth + (successor dir p).widthFrom = p.widthFrom := by
  cases dir <;> cases p <;> rfl

/-- A run of the engine keeps what every phase keeps, and appends at most what is to be queued from its phase on. -/
theorem runEngine_kept (k : Nat) (s s' : State) (r : Request) (hr : s.req = some r) (h : runEngine k s = .next s') :
    s'.req = some r ∧ s'.caller = s.caller ∧ s.tr.Grew s'.tr ∧
      s'.tr.mem.out.length ≤ s.tr.mem.out.length + s.eng.phase.widthFrom := by
  induction k generalizing s with
  | zero =>
    cases h
    exact ⟨hr, rfl, .refl _, Nat.le_add_right ..⟩
  | succ k ih =>
    cases ht : tick s with
    | fault f => simp [runEngine, ht] at h
    | refused f => simp [runEngine, ht] at h
    | next s₁ =>
      obtain ⟨hreq, hcaller, hgrew, hlen⟩ := tick_kept s s₁ ht
      have hrow := Phase.widthFrom_successor r.dir s.eng.phase
      by_cases hp : s₁.eng.phase = s.eng.phase
      · simp only [runEngine, ht, hp, if_true] at h
        cases h
        exact ⟨hreq.trans hr, hcaller, hgrew, by omega⟩
      · rw [runEngine_move k s s₁ ht hp] at h
        obtain ⟨hreq', hcaller', hgrew', hlen'⟩ := ih s₁ (hreq.trans hr) h
        refine ⟨hreq', hcaller'.trans hcaller, hgrew.trans hgrew', ?_⟩
        rcases phasesFollowTheTable s s₁ r hr ht with hnext | ⟨-, hfailed | hsame⟩
        · rw [hnext] at hlen'
          omega
        · rw [hfailed, Phase.widthFrom] at hlen'
          omega
        · exact absurd hsame hp

/-- Settles O34: the engine's run from Q_HDR on, from which the whole frame is still to be queued. -/
theorem requestFrame : Obligations.RequestFrame := by
  intro i r s s' hi h
  obtain ⟨hbusy, -⟩ := outOfPhaseIsRefused
  have hp : s.eng.phase = .idle := by
    by_contra hp
    cases (hbusy i r s hi hp).symm.trans h
  rw [exec_of_requestOf s i r hi hp] at h
  obtain ⟨hreq, hcaller, hgrew, hlen⟩ := runEngine_kept enginePhases (State.begin { s with req := some r }) s' r rfl h
  exact ⟨hreq, hcaller, hlen, fun q => Memory.readOut_of_prefix _ _ q hgrew.out,
    fun q => Memory.readIn_of_prefix _ _ q hgrew.shifted⟩

/-! The phase machine and the function `send` (R142, R166). -/

/-- How the engine stands once `send` has come to a result: in DONE, in FAILED, or in the phase whose call has not returned. -/
def SendResult.LeavesEngine (s : State) : SendResult → Prop
  | .response resp t => s.eng.phase = .done ∧ s.response = some resp ∧ s.tr = t
  | .transportError e t => s.eng.phase = .failed ∧ s.eng.err = some e ∧ s.response = none ∧ s.tr = t
  | .notReturned t => s.eng.phase.calls = true ∧ s.response = none ∧ s.tr = t

/-- The engine's run `o` of `r` for the caller `c` comes to what `send` comes to. -/
def RunsAs (r : Request) (c : Caller) (o : Result) (res : SendResult) : Prop :=
  ∃ s, o = .next s ∧ s.req = some r ∧ s.caller = c ∧ res.LeavesEngine s

/-- The state in which the transaction of `r` has come to the latches `e` and the transport `t`, without a Response. -/
def State.sending (r : Request) (e : Engine) (t : Transport) (s : State) : State :=
  { s with req := some r, eng := e, response := none, tr := t }

section
variable {k : Nat} {s : State} {r : Request} {e : Engine} {t : Transport}

/-- A phase with a call runs as that call of `send` if what follows its return runs as what follows there. -/
theorem runsAs_call {call : CallResult} {go : Nat → State → State} {next : Nat → Transport → SendResult} (e' : Nat → Engine)
    (hp : e.phase.calls = true) (ht : tick (s.sending r e t) = .next ((s.sending r e t).afterCall call go))
    (hgo : ∀ v t', go v (s.sending r e t') = s.sending r (e' v) t') (hne : ∀ v, (e' v).phase ≠ e.phase)
    (hnext : ∀ v t', RunsAs r s.caller (runEngine k (s.sending r (e' v) t')) (next v t')) :
    RunsAs r s.caller (runEngine (k + 1) (s.sending r e t)) (call.andThen next) := by
  have hf : e.phase ≠ .failed := fun hf => by simp [hf, Phase.calls] at hp
  have hmoves (v : Nat) (t' : Transport) : (go v ((s.sending r e t).setTr t')).eng.phase ≠ e.phase :=
    (congrArg (·.eng.phase) (hgo v t')).trans_ne (hne v)
  rw [runEngine_call k (s.sending r e t) call go ht hf hmoves]
  cases call with
  | returned v t' =>
    have hrun := hnext v t'
    rwa [← hgo v t'] at hrun
  | failed err t' => exact ⟨_, rfl, rfl, rfl, rfl, rfl, rfl, rfl⟩
  | waiting t' => exact ⟨_, rfl, rfl, rfl, hp, rfl, rfl⟩

/-- CLASSIFY ends the run where `send` returns its Response. -/
theorem runsAs_classify {resp : Response} (hp : e.phase = .classify)
    (ht : tick (s.sending r e t) = .next ((s.sending r e t).present resp)) :
    RunsAs r s.caller (runEngine (k + 1) (s.sending r e t)) (.response resp t) := by
  have hne : ((s.sending r e t).present resp).eng.phase ≠ e.phase := by simp [hp]
  rw [runEngine_move k _ _ ht hne, runEngine_waits k _ (.inr (.inl rfl))]
  exact ⟨_, rfl, rfl, rfl, rfl, rfl, rfl⟩

end

section
variable {s : State} {idx : Index} {ap : Bool} {w : Word} {off : Nat} {t : Transport}

/-- From Q_DATA on, the run of a Read is `sendRead`. -/
theorem runsAs_sendRead : RunsAs (tableRead idx ap) s.caller
    (runEngine 7 (s.sending (tableRead idx ap) { Engine.empty with phase := .qData, ackOff := some off } t)) (sendRead off t) := by
  refine runsAs_call (fun _ => { Engine.empty with phase := .qPar, ackOff := some off }) rfl
    (tick_qData _ _ 0 0 rfl rfl rfl) (fun _ _ => rfl) (fun _ => nofun) fun _ t₁ => ?_
  refine runsAs_call (fun _ => { Engine.empty with phase := .cAck, ackOff := some off }) rfl
    (tick_qPar _ _ 0 0 rfl rfl rfl) (fun _ _ => rfl) (fun _ => nofun) fun _ t₂ => ?_
  refine runsAs_call (fun v => { Engine.empty with phase := .cData, ackOff := some off, ack := some (ackOfValue v) }) rfl
    (tick_cAck _ _ off rfl rfl rfl) (fun _ _ => rfl) (fun _ => nofun) fun ack t₃ => ?_
  refine runsAs_call (fun v => { Engine.empty with
      phase := .cPar, ackOff := some off, ack := some (ackOfValue ack), data := some (dataOfValue v) }) rfl
    (tick_cData _ off rfl rfl) (fun _ _ => rfl) (fun _ => nofun) fun data t₄ => ?_
  refine runsAs_call (fun v => { Engine.empty with
      phase := .classify, ackOff := some off, ack := some (ackOfValue ack), data := some (dataOfValue data),
      par := some (parOfValue v) }) rfl
    (tick_cPar _ off rfl rfl) (fun _ _ => rfl) (fun _ => nofun) fun par t₅ => ?_
  exact runsAs_classify rfl (tick_classify_read _ _ _ _ _ rfl rfl rfl rfl rfl rfl)

/-- From Q_DATA on, the run of a Write is `sendWrite`. -/
theorem runsAs_sendWrite : RunsAs (tableWrite idx ap w) s.caller
    (runEngine 7 (s.sending (tableWrite idx ap w) { Engine.empty with phase := .qData, ackOff := some off } t))
    (sendWrite w off t) := by
  refine runsAs_call (fun _ => { Engine.empty with phase := .qPar, ackOff := some off }) rfl
    (tick_qData _ _ _ _ rfl rfl rfl) (fun _ _ => rfl) (fun _ => nofun) fun _ t₁ => ?_
  refine runsAs_call (fun _ => { Engine.empty with phase := .cAck, ackOff := some off }) rfl
    (tick_qPar _ _ _ _ rfl rfl rfl) (fun _ _ => rfl) (fun _ => nofun) fun _ t₂ => ?_
  refine runsAs_call (fun v => { Engine.empty with phase := .classify, ackOff := some off, ack := some (ackOfValue v) }) rfl
    (tick_cAck _ _ off rfl rfl rfl) (fun _ _ => rfl) (fun _ => nofun) fun ack t₃ => ?_
  exact runsAs_classify rfl (tick_classify_write _ _ _ rfl rfl rfl rfl)

end

/-- Settles O40: each phase is its call of `send`, which a failure or a missing return ends. -/
theorem phaseMachineIsSend : Obligations.PhaseMachineIsSend := by
  intro i r s hi hp
  rw [exec_of_requestOf s i r hi hp]
  suffices h : RunsAs r s.caller (runEngine 9 (s.sending r { Engine.empty with phase := .qHdr } s.tr.settled))
      (send r.header r.payload s.tr) from h
  refine runsAs_call (fun _ => { Engine.empty with phase := .qAck }) rfl
    (tick_qHdr _ r rfl rfl) (fun _ _ => rfl) (fun _ => nofun) fun _ t₁ => ?_
  refine runsAs_call (fun off => { Engine.empty with phase := .qData, ackOff := some off }) rfl
    (tick_qAck _ rfl) (fun _ _ => rfl) (fun _ => nofun) fun off t₂ => ?_
  rcases eq_table_of_built r (requestOf_built i r hi) with hr | ⟨w, hr⟩ <;> rw [hr]
  · exact runsAs_sendRead
  · exact runsAs_sendWrite

/-! The transport while a frame is queued and captured (R159, 20_memory.md R56, R60). -/

/-- A frame is what the four queue phases queue, one after another (R86). -/
theorem frameBits_eq_phaseBits (r : Request) (h : r.built = true) :
    frameBits r = r.phaseBits .qHdr ++ r.phaseBits .qAck ++ r.phaseBits .qData ++ r.phaseBits .qPar := by
  rw [← flatMap_phaseBits r h]
  cases r.dir <;> simp [callPhases, Request.phaseBits]

@[simp] theorem frameBits_length (r : Request) : (frameBits r).length = 44 := by
  cases h : r.payload <;> simp [frameBits, frameTail, h]

/-- The transport with `bits` queued behind the buffer, these answers coming and no call under way. -/
def Transport.withQueued (bits : List Bool) (as : List Answer) (t : Transport) : Transport :=
  { mem := t.mem.append bits, wire := t.wire, answers := as, progress := Progress.none }

/-- The transport with a whole frame queued and clocked, these answers coming. -/
def Transport.withFrame (r : Request) (as : List Answer) (t : Transport) : Transport :=
  Transport.afterFrame r { t with answers := as }

/-- The next `Queue` that returns places its bits behind those, from where they end. -/
theorem queueCall_withQueued (v n : Nat) (bits : List Bool) (as : List Answer) (t : Transport) :
    queueCall v n (t.withQueued bits (.returns :: as)) =
      .returned (t.mem.out.length + bits.length) (t.withQueued (bits ++ bitsOf v n) as) := by
  rw [queueCall_returns_fresh v n _ as rfl rfl]
  simp [Transport.withQueued, Memory.append_append]

/-- The first capture of a frame clocks the bus (R56). -/
theorem captureCall_withQueued (r : Request) (t : Transport) (as : List Answer) (hw : t.mem.wf = true) (off n : Nat)
    (hoff : t.mem.out.length < off + n) (hq : off + n ≤ t.mem.out.length + 44) :
    captureCall off n (t.withQueued (frameBits r) (.returns :: as)) =
      .returned ((t.withFrame r as).mem.valueAt off n) (t.withFrame r as) := by
  have hpending : t.mem.shifted.length < off + n := ((Memory.wf_iff _).mp hw).trans_lt hoff
  rw [captureCall_returns off n _ as rfl (by simpa [Transport.withQueued] using hq), Transport.sync, if_pos (.inr hpending)]
  rfl

/-- A later capture of the frame finds it clocked and leaves it so (R60). -/
theorem captureCall_withFrame (r : Request) (t : Transport) (as : List Answer) (off n : Nat) (hq : off + n ≤ t.mem.out.length + 44) :
    captureCall off n (t.withFrame r (.returns :: as)) = .returned ((t.withFrame r as).mem.valueAt off n) (t.withFrame r as) := by
  have hqueued : off + n ≤ (t.withFrame r (.returns :: as)).mem.out.length := by
    simpa [Transport.withFrame, Transport.afterFrame] using hq
  have hclocked : off + n ≤ (t.withFrame r as).mem.shifted.length := by
    simp only [Transport.withFrame, Transport.afterFrame, Transport.settled_mem, Transport.clock_length, Memory.unclocked_length,
      Memory.append_out, List.length_append, frameBits_length]
    omega
  rw [captureCall_returns off n _ as rfl hqueued]
  exact congrArg (fun t' : Transport => CallResult.returned (t'.mem.valueAt off n) t'.settled)
    (Transport.sync_of_clocked (off + n) (t.withFrame r as) rfl hclocked)

/-! The whole run of a Read and of a Write (R161 to R164). -/

/-- A phase whose call returns goes on to the state that follows its value. -/
theorem runEngine_returned {s s' : State} {c : CallResult} {go : Nat → State → State} {v : Nat} {t : Transport} (k : Nat)
    (ht : tick s = .next (s.afterCall c go)) (hc : c = .returned v t) (hgo : go v (s.setTr t) = s')
    (hp : s'.eng.phase ≠ s.eng.phase) : runEngine (k + 1) s = runEngine k s' := by
  subst hc hgo
  exact runEngine_move k s _ ht hp

/-- With its four `Queue` calls returning, a transaction comes to C_ACK with its frame queued and `ack_off` latched (R147 to R151). -/
theorem sendBuilt_queues (r : Request) (s : State) (as : List Answer) (hb : r.built = true)
    (ha : s.tr.answers = List.replicate 4 .returns ++ as) :
    sendBuilt { s with req := some r } =
      runEngine 5 (s.sending r { Engine.empty with phase := .cAck, ackOff := some (s.tr.mem.out.length + 8) }
        (s.tr.withQueued (frameBits r) as)) := by
  obtain ⟨d, p, hv⟩ := dataPhaseValues_of_built r hb
  obtain ⟨hdata, hpar⟩ := phaseBits_of_dataPhaseValues r d p hb hv
  have hstart : State.begin { s with req := some r } =
      s.sending r { Engine.empty with phase := .qHdr } (s.tr.withQueued [] (List.replicate 4 .returns ++ as)) := by
    rw [← ha]
    simp [State.begin, State.sending, Transport.withQueued, Transport.settled, Memory.append]
  rw [frameBits_eq_phaseBits r hb, hdata, hpar]
  calc
    _ = runEngine 9 (s.sending r { Engine.empty with phase := .qHdr } (s.tr.withQueued [] (List.replicate 4 .returns ++ as))) :=
      congrArg (runEngine 9) hstart
    _ = runEngine 8 (s.sending r { Engine.empty with phase := .qAck }
          (s.tr.withQueued (r.phaseBits .qHdr) (List.replicate 3 .returns ++ as))) :=
      runEngine_returned 8 (tick_qHdr _ r rfl rfl) (queueCall_withQueued ..) rfl nofun
    _ = runEngine 7 (s.sending r { Engine.empty with phase := .qData, ackOff := some (s.tr.mem.out.length + 8) }
          (s.tr.withQueued (r.phaseBits .qHdr ++ r.phaseBits .qAck) (List.replicate 2 .returns ++ as))) :=
      runEngine_returned 7 (tick_qAck _ rfl) (queueCall_withQueued ..) rfl nofun
    _ = runEngine 6 (s.sending r { Engine.empty with phase := .qPar, ackOff := some (s.tr.mem.out.length + 8) }
          (s.tr.withQueued (r.phaseBits .qHdr ++ r.phaseBits .qAck ++ bitsOf d 32) (.returns :: as))) :=
      runEngine_returned 6 (tick_qData _ r d p rfl rfl hv) (queueCall_withQueued ..) rfl nofun
    _ = _ := runEngine_returned 5 (tick_qPar _ r d p rfl rfl hv) (queueCall_withQueued ..) rfl nofun

theorem requestOf_of_readTarget (i : Instr) (idx : Index) (ap : Bool) (h : readTarget i = some (idx, ap)) :
    requestOf i = some (tableRead idx ap) := by
  simp only [requestOf, h]

theorem requestOf_of_writeTarget (i : Instr) (idx : Index) (ap : Bool) (w : Word) (h : writeTarget i = some (idx, ap, w)) :
    requestOf i = some (tableWrite idx ap w) := by
  have hread : readTarget i = none := by cases i <;> simp [writeTarget, readTarget] at h ⊢
  simp only [requestOf, hread, h]

/-- Settles O31: from C_ACK on the three captures one by one, and CLASSIFY. -/
theorem readRequestCompletes : Obligations.ReadRequestCompletes := by
  intro i idx ap s rest hi hp hw ha r t b ack data par
  calc
    _ = runEngine 5 (s.sending r { Engine.empty with phase := .cAck, ackOff := some (b + 8) }
          (s.tr.withQueued (frameBits r) (.returns :: .returns :: .returns :: rest))) := by
      rw [exec_of_requestOf s i r (requestOf_of_readTarget i idx ap hi) hp, sendBuilt_queues r s _ (tableRead_built idx ap) ha]
      rfl
    _ = runEngine 4 (s.sending r { Engine.empty with phase := .cData, ackOff := some (b + 8), ack := some ack }
          (s.tr.withFrame r (.returns :: .returns :: rest))) :=
      runEngine_returned 4 (tick_cAck _ r (b + 8) rfl rfl rfl) (captureCall_withQueued r s.tr _ hw (b + 8) 3 (by omega) (by omega))
        rfl nofun
    _ = runEngine 3 (s.sending r { Engine.empty with phase := .cPar, ackOff := some (b + 8), ack := some ack, data := some data }
          (s.tr.withFrame r (.returns :: rest))) :=
      runEngine_returned 3 (tick_cData _ (b + 8) rfl rfl) (captureCall_withFrame r s.tr _ (b + 11) 32 (by omega)) rfl nofun
    _ = runEngine 2 (s.sending r { Engine.empty with
          phase := .classify, ackOff := some (b + 8), ack := some ack, data := some data, par := some par } (s.tr.withFrame r rest)) :=
      runEngine_returned 2 (tick_cPar _ (b + 8) rfl rfl) (captureCall_withFrame r s.tr _ (b + 43) 1 (by omega)) rfl nofun
    _ = runEngine 1 _ := runEngine_move 1 _ _ (tick_classify_read _ r ack data par rfl rfl rfl rfl rfl rfl) nofun
    _ = _ := runEngine_waits 1 _ (.inr (.inl rfl))

/-- Settles O32: from C_ACK on the one capture, and CLASSIFY. -/
theorem writeRequestCompletes : Obligations.WriteRequestCompletes := by
  intro i idx ap w s rest hi hp hw ha r t b ack
  calc
    _ = runEngine 5 (s.sending r { Engine.empty with phase := .cAck, ackOff := some (b + 8) }
          (s.tr.withQueued (frameBits r) (.returns :: rest))) := by
      rw [exec_of_requestOf s i r (requestOf_of_writeTarget i idx ap w hi) hp, sendBuilt_queues r s _ (tableWrite_built idx ap w) ha]
      rfl
    _ = runEngine 4 (s.sending r { Engine.empty with phase := .classify, ackOff := some (b + 8), ack := some ack }
          (s.tr.withFrame r rest)) :=
      runEngine_returned 4 (tick_cAck _ r (b + 8) rfl rfl rfl) (captureCall_withQueued r s.tr _ hw (b + 8) 3 (by omega) (by omega))
        rfl nofun
    _ = runEngine 3 _ := runEngine_move 3 _ _ (tick_classify_write _ r ack rfl rfl rfl rfl) nofun
    _ = _ := runEngine_waits 3 _ (.inr (.inl rfl))

/-! On a loopback (R165, R68). -/

/-- On a loopback a capture of the frame reads what the frame has there. -/
theorem Transport.withFrame_loopback_valueAt (r : Request) (as : List Answer) (t : Transport) (k n : Nat) (hw : t.mem.wf = true)
    (hl : t.wire = .loopback) :
    (t.withFrame r as).mem.valueAt (t.mem.out.length + k) n = valueOf (((frameBits r).drop k).take n) := by
  rw [Memory.wf_iff] at hw
  have hshifted := Transport.clock_loopback (t.withQueued (frameBits r) as) hl
  have hbits : (t.withFrame r as).mem.shifted.drop (t.mem.out.length + k) = (frameBits r).drop k := by
    refine (congrArg _ hshifted).trans ?_
    simp only [Transport.withQueued, Memory.append_shifted, Memory.unclocked, Memory.append_out]
    rw [List.drop_append, List.drop_eq_nil_of_le (by omega), List.drop_drop, List.nil_append,
      Nat.add_sub_cancel' (by omega), ← List.drop_drop, List.drop_left]
  rw [Memory.valueAt, hbits]

/-- Where a Read captures ack, data and parity, the frame of a Write of `w` has zeros, `w` and its parity (R86, R88). -/
theorem valueOf_frameBits_tableWrite (idx : Index) (ap : Bool) (w : Word) :
    valueOf (((frameBits (tableWrite idx ap w)).drop 8).take 3) = 0 ∧
    valueOf (((frameBits (tableWrite idx ap w)).drop 11).take 32) = w.toNat ∧
    valueOf (((frameBits (tableWrite idx ap w)).drop 43).take 1) = (parity32 w).toNat := by
  have hframe : frameBits (tableWrite idx ap w) =
      bitsOf (tableWrite idx ap w).header.toNat 8 ++ (List.replicate 3 false ++ (bitsOf w.toNat 32 ++ [parity32 w])) := by
    simp [frameBits, frameTail, tableWrite]
  refine ⟨?_, ?_, ?_⟩ <;> rw [hframe]
  · rw [List.drop_left' (by simp), List.take_left' (by simp)]
    rfl
  · rw [← List.append_assoc, List.drop_left' (by simp), List.take_left' (by simp), valueOf_bitsOf, Nat.mod_eq_of_lt w.isLt]
  · rw [← List.append_assoc, ← List.append_assoc, List.drop_left' (by simp)]
    rfl

/-- Settles O41: a Write's own capture reads the reserved zeros, and the later ones its payload and its parity. -/
theorem writeReadsBackOnLoopback : Obligations.WriteReadsBackOnLoopback := by
  intro i idx ap w s rest hi hp hw hl ha
  have hread := fun as k n => Transport.withFrame_loopback_valueAt (tableWrite idx ap w) as s.tr k n hw hl
  obtain ⟨hack, hdata, hpar⟩ := valueOf_frameBits_tableWrite idx ap w
  refine ⟨_, s.tr.mem.out.length + 8, s.tr.withFrame (tableWrite idx ap w) (.returns :: rest),
    s.tr.withFrame (tableWrite idx ap w) rest, writeRequestCompletes i idx ap w s (.returns :: .returns :: rest) hi hp hw ha, rfl,
    ?_, ?_, ?_⟩
  · exact (captureCall_withFrame _ s.tr _ (s.tr.mem.out.length + 11) 32 (by omega)).trans (by rw [hread, hdata])
  · exact (captureCall_withFrame _ s.tr _ (s.tr.mem.out.length + 43) 1 (by omega)).trans (by rw [hread, hpar])
  · have hzero := (hread (.returns :: .returns :: rest) 8 3).trans hack
    exact congrArg (fun v => some (classifyWrite (BitVec.ofNat 3 v))) hzero

end Sys2Proof.Machine
end

section
/-! PROOFS. The parity and response family (42_parity_and_response.md R180 to R194): parity as a weight modulo 2 and its laws, the
check of a received pair, the ack decode, the two classifications and the status codes. -/

namespace Sys2Proof.Machine

/-! The weight of a list of bits, its parity and its XOR (R180, R181). -/

theorem popcount_cons (b : Bool) (bs : List Bool) : popcount (b :: bs) = b.toNat + popcount bs := by
  rw [popcount, List.count_cons, Nat.add_comm, popcount]
  cases b <;> rfl

theorem popcount_eq_sum (bs : List Bool) : popcount bs = (bs.map Bool.toNat).sum := by
  induction bs with
  | nil => rfl
  | cons b bs ih => rw [popcount_cons, ih, List.map_cons, List.sum_cons]

theorem bit_eq_of_toNat_eq (a b : Bool) (h : a.toNat = b.toNat) : a = b := by
  revert a b
  decide

/-- The XOR of two bits adds them modulo 2. -/
theorem toNat_xor_two (a b : Bool) : (a ^^ b).toNat = (a.toNat + b.toNat) % 2 := by
  cases a <;> cases b <;> rfl

theorem toNat_foldl_xor (acc : Bool) (bs : List Bool) :
    (bs.foldl (· ^^ ·) acc).toNat = (acc.toNat + popcount bs) % 2 := by
  induction bs generalizing acc with
  | nil => exact (Nat.mod_eq_of_lt acc.toNat_lt).symm
  | cons b bs ih => rw [List.foldl_cons, ih, toNat_xor_two, popcount_cons, Nat.mod_add_mod, Nat.add_assoc]

/-- The bits of a word are its bits by position. -/
theorem bitsOf_toNat_word (d : Word) : bitsOf d.toNat 32 = (List.range 32).map d.getLsbD := rfl

/-- A one-hot value has weight 1. -/
theorem popcount_bitsOf_two_pow (k n : Nat) (hk : k < n) : popcount (bitsOf (2 ^ k) n) = 1 := by
  induction n generalizing k with
  | zero => exact absurd hk k.not_lt_zero
  | succ n ih =>
    rw [popcount_bitsOf_succ]
    cases k with
    | zero =>
      have hzero : ∀ m, popcount (bitsOf 0 m) = 0 := fun m => by simp [popcount, bitsOf, List.count_replicate]
      exact congrArg (1 + ·) (hzero n)
    | succ k =>
      rw [Nat.pow_succ, Nat.mul_mod_left, Nat.mul_div_cancel _ (by decide), ih k (Nat.lt_of_succ_lt_succ hk)]

/-! Parity and the read check (R180, R181, R183). -/

theorem toNat_parity32 (d : Word) : (parity32 d).toNat = popcount (bitsOf d.toNat 32) % 2 := by
  rw [parity32, Config.dataWidth]
  rcases Nat.mod_two_eq_zero_or_one (popcount (bitsOf d.toNat 32)) with h | h <;> rw [h] <;> rfl

/-- R181 (a). -/
theorem parity32_eq_foldl_xor (d : Word) : parity32 d = (List.range 32).foldl (fun acc i => acc ^^ d.getLsbD i) false := by
  apply bit_eq_of_toNat_eq
  rw [← List.foldl_map (f := d.getLsbD) (g := (· ^^ ·)), toNat_foldl_xor, ← bitsOf_toNat_word, toNat_parity32, Bool.toNat_false,
    Nat.zero_add]

/-- R181 (b), the one-hot words. -/
theorem parity32_twoPow (k : Nat) (hk : k < 32) : parity32 (BitVec.twoPow 32 k) = true := by
  have hvalue : (BitVec.twoPow 32 k).toNat = 2 ^ k := by
    rw [BitVec.toNat_twoPow, Nat.mod_eq_of_lt (Nat.pow_lt_pow_right (by decide) hk)]
  apply bit_eq_of_toNat_eq
  rw [toNat_parity32, hvalue, popcount_bitsOf_two_pow k 32 hk]
  rfl

/-- R181 (c): parity is linear over XOR. -/
theorem parity32_xor (a b : Word) : parity32 (a ^^^ b) = (parity32 a ^^ parity32 b) := by
  apply bit_eq_of_toNat_eq
  rw [toNat_xor_two, toNat_parity32, toNat_parity32, toNat_parity32, BitVec.toNat_xor, popcount_bitsOf_xor, ← Nat.add_mod]

/-- The check of a received pair fails exactly if the weight of its 33 bits is odd. -/
theorem mismatch_iff (d : Word) (p : Bool) : mismatch d p = true ↔ (popcount (bitsOf d.toNat 32) + p.toNat) % 2 = 1 := by
  have hodd : ∀ a b : Bool, (a != b) = true ↔ (a.toNat + b.toNat) % 2 = 1 := by decide
  rw [mismatch, hodd, toNat_parity32, Nat.mod_add_mod]

theorem mismatch_eq_false_iff (d : Word) (p : Bool) :
    mismatch d p = false ↔ (popcount (bitsOf d.toNat 32) + p.toNat) % 2 = 0 := by
  rw [← Bool.not_eq_true, mismatch_iff, Nat.mod_two_not_eq_one]

/-- The check of a pair that differs from a correctly formed one sees the difference alone. -/
theorem mismatch_xor_parity32 (d m : Word) (f : Bool) : mismatch (d ^^^ m) (parity32 d ^^ f) = mismatch m f := by
  have hcancel : ∀ a b c : Bool, ((a ^^ b) != (a ^^ c)) = (b != c) := by decide
  rw [mismatch, parity32_xor, hcancel, mismatch]

/-- Settles O12: the weight is the sum of the bits by position. -/
theorem parityIsPopcountModTwo : Obligations.ParityIsPopcountModTwo := by
  refine ⟨fun d => ?_, by decide, by decide, by decide⟩
  rw [toNat_parity32, popcount_eq_sum, bitsOf_toNat_word, List.map_map]
  rfl

/-- Settles O13: (a) to (c) are laws of the weight modulo 2; a flip is an XOR with a one-hot word, a correct pair passes its own check,
and the check of a flipped pair is that of the flips. -/
theorem parityLaws : Obligations.ParityLaws := by
  refine ⟨parity32_eq_foldl_xor, ⟨by decide, by decide, parity32_twoPow⟩, parity32_xor, fun d k hk => ?_,
    fun d => ?_, fun d m f => ?_⟩
  · rw [parity32_xor, parity32_twoPow k hk, Bool.xor_true]
  · exact (mismatch_eq_false_iff d (parity32 d)).mp (bne_self_eq_false _)
  · rw [mismatch_xor_parity32, mismatch_iff]

/-! The ack decode, classification and the status codes (R184 to R194). -/

theorem decodeAck_eq_invalid (a : AckBits) (h1 : a ≠ 0b001#3) (h2 : a ≠ 0b010#3) (h4 : a ≠ 0b100#3) : decodeAck a = .invalid := by
  revert a
  decide

theorem decodeAck_eq_ack_iff (a : AckBits) : decodeAck a = .ack ↔ a = 0b001#3 := by
  revert a
  decide

/-- Settles O14: the three one-hot patterns compute, the five others are INVALID together. -/
theorem ackDecodeTable : Obligations.AckDecodeTable :=
  ⟨rfl, rfl, rfl, decodeAck_eq_invalid⟩

/-- Under ACK the check decides (R186). -/
theorem classifyRead_ack (d : Word) (p : Bool) :
    classifyRead 0b001#3 d p = ⟨if mismatch d p then .invalid else .ack, some d⟩ := rfl

/-- Only ACK with an agreeing parity yields ACK: every other status stands whatever the check says (R186). -/
theorem readStatus_eq_ack_iff (st : Status) (d : Word) (p : Bool) :
    readStatus st d p = .ack ↔ st = .ack ∧ mismatch d p = false := by
  cases st with
  | ack => cases h : mismatch d p <;> simp [readStatus, h]
  | wait | fault | invalid => simp [readStatus]

/-- Settles O15: under ACK by the check of the pair, else by the decoded ack. -/
theorem classificationTables : Obligations.ClassificationTables := by
  refine ⟨fun d p h => ?_, fun d p h => ?_, fun _ _ => ⟨rfl, rfl⟩, fun a d p h1 h2 h4 => ?_,
    ⟨rfl, rfl, rfl⟩, fun a h1 h2 h4 => ?_⟩
  · have hagree : mismatch d p = false := bne_eq_false_iff_eq.mpr h
    rw [classifyRead_ack, hagree]
    rfl
  · have hdiffer : mismatch d p = true := bne_iff_ne.mpr h
    rw [classifyRead_ack, hdiffer]
    rfl
  · rw [classifyRead, decodeAck_eq_invalid a h1 h2 h4, readStatus]
  · rw [classifyWrite, decodeAck_eq_invalid a h1 h2 h4]

/-- Settles O16: A and C are the check of one pair each, B is the decode alone. -/
theorem scenariosOfClassifyRead : Obligations.ScenariosOfClassifyRead :=
  ⟨by decide, fun _ _ => rfl, by decide⟩

/-- Settles O17: ACK is the one-hot pattern and a passing check, which even weight is; even flips leave the check passing. -/
theorem ackTellsEvenWeight : Obligations.AckTellsEvenWeight := by
  have hread : ∀ a d p, (classifyRead a d p).status = .ack ↔ a = 0b001#3 ∧ mismatch d p = false := fun a d p => by
    rw [classifyRead, readStatus_eq_ack_iff, decodeAck_eq_ack_iff]
  refine ⟨fun a d p => ?_, fun d m f heven => ?_, decodeAck_eq_ack_iff⟩
  · rw [hread, mismatch_eq_false_iff]
  · exact (hread _ _ _).mpr ⟨rfl, by rw [mismatch_xor_parity32, mismatch_eq_false_iff, heven]⟩

/-- The open code of INVALID is none of the other codes (R189, log 14). -/
theorem statusInvalidCode_ne :
    Config.statusInvalidCode ≠ 1 ∧ Config.statusInvalidCode ≠ 2 ∧ Config.statusInvalidCode ≠ 4 := by
  rw [Config.statusInvalidCode]
  split <;> omega

/-- Settles O18: three fixed codes, and the choice of the open one avoids them. -/
theorem statusCodesAreDistinct : Obligations.StatusCodesAreDistinct :=
  ⟨rfl, rfl, rfl, statusInvalidCode_ne⟩

end Sys2Proof.Machine
end

section
/-! PROOFS. The exceptions family (60_exceptions.md R200 to R221): what a failing transport call does to a phase and to a whole request,
the order in which the outcomes of a transaction apply, that nothing the caller does touches a transaction, and how a failure is handed
over. -/

namespace Sys2Proof.Machine

/-! One call that fails (R158, R206). -/

/-- The call of a phase fails with the failure the transport answers. -/
theorem Phase.Makes.fails {p : Phase} {t : Transport} {call : CallResult} {e : TransportFailure} {g : List Bool} {c : Nat}
    {rest : List Answer} (h : p.Makes t call) (ha : t.answers = .fails e g c :: rest) :
    ∃ t', call = .failed e t' ∧ t'.answers = rest := by
  rcases h with ⟨-, v, rfl⟩ | ⟨-, off, n, rfl⟩
  · exact ⟨_, queueCall_fails v _ t e g c rest ha, rfl⟩
  · exact ⟨_, captureCall_fails off n t e g c rest ha, rfl⟩

/-- Settles O28: a phase with a call makes it, and `failTransaction` writes `ENG.err`, the phase and the Response alone. -/
theorem failedCallEntersFailed : Obligations.FailedCallEntersFailed := by
  intro s e g c rest h hc ha
  obtain ⟨s', ht, -⟩ := tick_keepsInv s h
  rcases tick_cases s s' ht with ⟨hp, -⟩ | ⟨hp, -⟩ | ⟨call, go, p', rfl, hcall⟩
  · rcases hp with hp | hp | hp <;> simp [hp, Phase.calls] at hc
  · simp [hp, Phase.calls] at hc
  · obtain ⟨t, rfl, hrest⟩ := hcall.makes.fails ha
    exact ⟨_, ht, rfl, rfl, rfl, hrest, rfl, rfl, rfl, rfl, rfl, rfl⟩

/-! One capture that returns (R55). -/

/-- A `Capture` of queued positions that returns takes its answer and queues nothing. -/
theorem captureCall_of_queued (off n : Nat) (t : Transport) (rest : List Answer) (ha : t.answers = .returns :: rest)
    (hq : off + n ≤ t.mem.out.length) :
    ∃ v t', captureCall off n t = .returned v t' ∧ t'.answers = rest ∧ t'.mem.out = t.mem.out ∧ t'.progress = Progress.none :=
  ⟨_, _, captureCall_returns off n t rest ha hq, by simp, by simp, rfl⟩

/-! The first failing call of a `send` (R142, R206, R245). -/

/-- What holds of the rest of a `send` on `t`, with no call under way, with so many `calls` still to make and these `rows` still to queue:
if one of the calls fails after the ones before it have returned, its failure is the result, the later answers are left, and the rows of
the calls before it are queued. -/
def SendResult.FailsAtFirst (calls : Nat) (rows : List (List Bool)) (t : Transport) (res : SendResult) : Prop :=
  t.progress = Progress.none → ∀ (k : Nat) (e : TransportFailure) (g : List Bool) (c : Nat) (rest : List Answer), k < calls →
    t.answers = List.replicate k .returns ++ .fails e g c :: rest →
    ∃ t', res = .transportError e t' ∧ t'.answers = rest ∧ t.mem.out ++ (rows.take k).flatten <+: t'.mem.out

section
variable {t : Transport} {calls : Nat} {rows : List (List Bool)} {next : Nat → Transport → SendResult}

/-- No call is left to fail. -/
theorem failsAtFirst_zero (res : SendResult) : res.FailsAtFirst 0 rows t := fun _ _ _ _ _ _ hk => absurd hk (Nat.not_lt_zero _)

/-- A `Queue` is the first to fail, or queues its row and leaves the failure to a later call. -/
theorem failsAtFirst_queue (v n : Nat) (hnext : ∀ t', t'.mem.out = t.mem.out ++ bitsOf v n →
      (next t.mem.out.length t').FailsAtFirst calls rows t') :
    ((queueCall v n t).andThen next).FailsAtFirst (calls + 1) (bitsOf v n :: rows) t := by
  intro hp k e g c rest hk ha
  cases k with
  | zero =>
    rw [queueCall_fails v n t e g c rest ha]
    exact ⟨_, rfl, rfl, by simp⟩
  | succ k =>
    rw [queueCall_returns_fresh v n t _ ha hp]
    obtain ⟨t', hres, hrest, hout⟩ := hnext { t with mem := t.mem.append (bitsOf v n), answers := _ } rfl hp k e g c rest
      (by omega) rfl
    exact ⟨t', hres, hrest, by simpa using hout⟩

/-- A `Capture` of queued positions is the first to fail, or queues nothing and leaves the failure to a later call. -/
theorem failsAtFirst_capture (off n : Nat) (hq : off + n ≤ t.mem.out.length)
    (hnext : ∀ v t', t'.mem.out = t.mem.out → (next v t').FailsAtFirst calls [] t') :
    ((captureCall off n t).andThen next).FailsAtFirst (calls + 1) [] t := by
  intro _ k e g c rest hk ha
  cases k with
  | zero =>
    rw [captureCall_fails off n t e g c rest ha]
    exact ⟨_, rfl, rfl, by simp⟩
  | succ k =>
    obtain ⟨v, t₁, hcall, ha₁, hout₁, hp₁⟩ := captureCall_of_queued off n t _ ha hq
    obtain ⟨t', hres, hrest, hout⟩ := hnext v t₁ hout₁ hp₁ k e g c rest (by omega) ha₁
    exact ⟨t', hcall ▸ hres, hrest, by simpa [hout₁] using hout⟩

/-- The five calls of a Read from its data row on (R150, R153 to R155). -/
theorem sendRead_failsAtFirst (off : Nat) (hoff : t.mem.out.length = off + 3) :
    (sendRead off t).FailsAtFirst 5 [bitsOf 0 32, bitsOf 0 1] t := by
  refine failsAtFirst_queue 0 32 fun t₁ h₁ => failsAtFirst_queue 0 1 fun t₂ h₂ => ?_
  have hlen : t₂.mem.out.length = off + 36 := by simp [h₂, h₁, hoff]
  refine failsAtFirst_capture off 3 (by omega) fun ack t₃ h₃ => ?_
  refine failsAtFirst_capture (off + 3) 32 (by rw [h₃]; omega) fun data t₄ h₄ => ?_
  exact failsAtFirst_capture (off + 3 + 32) 1 (by rw [h₄, h₃]; omega) fun par t₅ _ => failsAtFirst_zero _

/-- The three calls of a Write from its data row on (R151, R153). -/
theorem sendWrite_failsAtFirst (w : Word) (off : Nat) (hoff : t.mem.out.length = off + 3) :
    (sendWrite w off t).FailsAtFirst 3 [bitsOf w.toNat 32, bitsOf (parity32 w).toNat 1] t := by
  refine failsAtFirst_queue _ 32 fun t₁ h₁ => failsAtFirst_queue _ 1 fun t₂ h₂ => ?_
  have hlen : t₂.mem.out.length = off + 36 := by simp [h₂, h₁, hoff]
  exact failsAtFirst_capture off 3 (by omega) fun ack t₃ _ => failsAtFirst_zero _

end

/-- The four rows of a Request's frame (R86, R147 to R151). -/
def Request.rows (r : Request) : List (List Bool) :=
  [r.phaseBits .qHdr, r.phaseBits .qAck, r.phaseBits .qData, r.phaseBits .qPar]

/-- The first rows are the first positions of the frame. -/
theorem Request.flatten_take_rows (r : Request) (h : r.built = true) (k : Nat) :
    (r.rows.take k).flatten = (frameBits r).take ([0, 8, 11, 43].getD k 44) := by
  have hframe : frameBits r = r.rows.flatten := by simp [frameBits_eq_phaseBits r h, Request.rows]
  have hlen : ((r.rows.map List.length).take k).sum = [0, 8, 11, 43].getD k 44 := by
    rcases k with _ | _ | _ | _ | k <;> simp [Request.rows, Request.phaseBits]
  rw [hframe, ← hlen, List.take_sum_flatten]

/-- The rows are what the four `Queue` calls of a `send` queue. -/
theorem Request.rows_eq_bitsOf (r : Request) (d p : Nat) (h : r.built = true) (hv : dataPhaseValues r = some (d, p)) :
    r.rows = [bitsOf r.header.toNat 8, bitsOf 0 3, bitsOf d 32, bitsOf p 1] := by
  obtain ⟨hdata, hpar⟩ := phaseBits_of_dataPhaseValues r d p h hv
  rw [Request.rows, hdata, hpar]
  rfl

/-- The whole `send` of a Request, from the header's row on (R142). -/
theorem send_failsAtFirst (r : Request) (h : r.built = true) (t : Transport) :
    (send r.header r.payload t).FailsAtFirst (callsOf r.dir) r.rows t.settled := by
  rcases eq_table_of_built r h with hr | ⟨w, hr⟩
  · rw [hr, Request.rows_eq_bitsOf _ 0 0 (tableRead_built ..) rfl]
    refine failsAtFirst_queue _ 8 fun t₁ _ => failsAtFirst_queue 0 3 fun t₂ h₂ => ?_
    exact sendRead_failsAtFirst _ (by simp [h₂])
  · rw [hr, Request.rows_eq_bitsOf _ w.toNat (parity32 w).toNat (tableWrite_built ..) rfl]
    refine failsAtFirst_queue _ 8 fun t₁ _ => failsAtFirst_queue 0 3 fun t₂ h₂ => ?_
    exact sendWrite_failsAtFirst w _ (by simp [h₂])

/-- A request whose first failing call is its call `k` ends in FAILED (R206). -/
theorem exec_fails (i : Instr) (r : Request) (s : State) (k : Nat) (e : TransportFailure) (g : List Bool) (c : Nat)
    (rest : List Answer) (hi : requestOf i = some r) (hp : s.eng.phase = .idle) (hk : k < callsOf r.dir)
    (ha : s.tr.answers = List.replicate k .returns ++ .fails e g c :: rest) :
    ∃ s', exec i s = .next s' ∧ s'.eng.phase = .failed ∧ s'.eng.err = some e ∧ s'.response = none ∧ s'.req = some r ∧
      s'.tr.answers = rest ∧ s.tr.mem.out ++ (frameBits r).take ([0, 8, 11, 43].getD k 44) <+: s'.tr.mem.out := by
  have hb := requestOf_built i r hi
  obtain ⟨t, hsend, hrest, hout⟩ := send_failsAtFirst r hb s.tr rfl k e g c rest hk ha
  obtain ⟨s', hrun, hreq, -, hleaves⟩ := phaseMachineIsSend i r s hi hp
  rw [hsend] at hleaves
  obtain ⟨hph, herr, hresp, rfl⟩ := hleaves
  exact ⟨s', hrun, hph, herr, hresp, hreq, hrest, r.flatten_take_rows hb k ▸ hout⟩

/-- Settles O35: the request is `send`, whose first failing call is its result. -/
theorem firstFailureEndsTheRequest : Obligations.FirstFailureEndsTheRequest :=
  fun i r s k e g c rest hi hp _ hk ha => exec_fails i r s k e g c rest hi hp hk ha

/-! The Response of a request whose calls all return (R209). -/

/-- With its first five calls returning, a transaction has its ack latched and its frame queued (R147 to R153). -/
theorem sendBuilt_latches_ack (r : Request) (s : State) (as : List Answer) (hb : r.built = true)
    (ha : s.tr.answers = List.replicate 5 .returns ++ as) :
    ∃ off a t, sendBuilt { s with req := some r } =
        runEngine 4 (s.sending r { Engine.empty with phase := afterAck r.dir, ackOff := some off, ack := some a } t) ∧
      t.answers = as ∧ off + 36 ≤ t.mem.out.length := by
  have hlen : (s.tr.withQueued (frameBits r) (.returns :: as)).mem.out.length = s.tr.mem.out.length + 44 := by
    simp [Transport.withQueued]
  obtain ⟨v, t, hcall, hans, hout, -⟩ := captureCall_of_queued (s.tr.mem.out.length + 8) 3 _ as rfl (by rw [hlen]; omega)
  refine ⟨_, ackOfValue v, t, ?_, hans, by rw [hout, hlen]⟩
  rw [sendBuilt_queues r s (.returns :: as) hb ha]
  exact runEngine_returned 4 (tick_cAck _ r _ rfl rfl rfl) hcall rfl (by cases r.dir <;> nofun)

/-- A Read presents what its three latches classify to (R156, R186). -/
theorem sendBuilt_read_presents (idx : Index) (ap : Bool) (s : State) (rest : List Answer)
    (ha : s.tr.answers = List.replicate 7 .returns ++ rest) :
    ∃ s' a d p, sendBuilt { s with req := some (tableRead idx ap) } = .next s' ∧ s'.eng.phase = .done ∧ s'.eng.ack = some a ∧
      s'.eng.data = some d ∧ s'.eng.par = some p ∧ s'.response = some (classifyRead a d p) := by
  obtain ⟨off, a, t₁, hrun, ha₁, hlen⟩ := sendBuilt_latches_ack (tableRead idx ap) s (.returns :: .returns :: rest)
    (tableRead_built idx ap) ha
  obtain ⟨data, t₂, h₂, ha₂, hout₂, -⟩ := captureCall_of_queued (off + 3) 32 t₁ _ ha₁ (by omega)
  obtain ⟨par, t₃, h₃, -⟩ := captureCall_of_queued (off + 3 + 32) 1 t₂ _ ha₂ (by rw [hout₂]; omega)
  have hpresents := calc
    _ = runEngine 4 (s.sending (tableRead idx ap) { Engine.empty with phase := .cData, ackOff := some off, ack := some a } t₁) := hrun
    _ = runEngine 3 (s.sending (tableRead idx ap) { Engine.empty with
          phase := .cPar, ackOff := some off, ack := some a, data := some (dataOfValue data) } t₂) :=
      runEngine_returned 3 (tick_cData _ off rfl rfl) h₂ rfl nofun
    _ = runEngine 2 (s.sending (tableRead idx ap) { Engine.empty with
          phase := .classify, ackOff := some off, ack := some a, data := some (dataOfValue data), par := some (parOfValue par) } t₃) :=
      runEngine_returned 2 (tick_cPar _ off rfl rfl) h₃ rfl nofun
    _ = runEngine 1 _ := runEngine_move 1 _ _ (tick_classify_read _ _ _ _ _ rfl rfl rfl rfl rfl rfl) nofun
    _ = .next _ := runEngine_waits 1 _ (.inr (.inl rfl))
  exact ⟨_, a, _, _, hpresents, rfl, rfl, rfl, rfl, rfl⟩

/-- A Write presents what its ack latch classifies to (R156, R187). -/
theorem sendBuilt_write_presents (idx : Index) (ap : Bool) (w : Word) (s : State) (rest : List Answer)
    (ha : s.tr.answers = List.replicate 5 .returns ++ rest) :
    ∃ s' a, sendBuilt { s with req := some (tableWrite idx ap w) } = .next s' ∧ s'.eng.phase = .done ∧ s'.eng.ack = some a ∧
      s'.response = some (classifyWrite a) := by
  obtain ⟨off, a, t, hrun, -⟩ := sendBuilt_latches_ack (tableWrite idx ap w) s rest (tableWrite_built idx ap w) ha
  have hpresents := calc
    _ = runEngine 4 (s.sending (tableWrite idx ap w) { Engine.empty with phase := .classify, ackOff := some off, ack := some a } t) :=
      hrun
    _ = runEngine 3 _ := runEngine_move 3 _ _ (tick_classify_write _ _ _ rfl rfl rfl rfl) nofun
    _ = .next _ := runEngine_waits 3 _ (.inr (.inl rfl))
  exact ⟨_, a, hpresents, rfl, rfl, rfl⟩

/-- Settles O37: a failing call leaves no Response; else the Response is the classification, whose tables give each status. -/
theorem outcomePriority : Obligations.OutcomePriority := by
  intro i r s hi hp
  obtain ⟨hagree, hdiffer, hreadOneHot, hreadInvalid, ⟨hack, hwait, hfault⟩, hinvalid⟩ := classificationTables
  refine ⟨fun k e g c rest hk ha => ?_, fun rest ha => ?_⟩
  · obtain ⟨s', hrun, hph, herr, hresp, -⟩ := exec_fails i r s k e g c rest hi hp hk ha
    exact ⟨s', hrun, hph, herr, hresp⟩
  · rw [exec_of_requestOf s i r hi hp]
    rcases eq_table_of_built r (requestOf_built i r hi) with hr | ⟨w, hr⟩ <;> rw [hr] at ha ⊢
    · obtain ⟨s', a, d, p, hrun, hph, hlatch, hd, hpar, hresp⟩ := sendBuilt_read_presents r.idx r.ap s rest ha
      obtain ⟨hw, hf⟩ := hreadOneHot d p
      exact ⟨s', a, _, hrun, hph, hlatch, hresp, fun h => by rw [h, hw], fun h => by rw [h, hf],
        fun h1 h2 h4 => by rw [hreadInvalid a d p h1 h2 h4], nofun,
        fun h _ => ⟨d, p, hd, hpar, fun hp => by rw [h, hdiffer d p hp], fun hp => by rw [h, hagree d p hp]⟩⟩
    · obtain ⟨s', a, hrun, hph, hlatch, hresp⟩ := sendBuilt_write_presents r.idx r.ap w s rest ha
      exact ⟨s', a, _, hrun, hph, hlatch, hresp, fun h => by rw [h, hwait], fun h => by rw [h, hfault],
        fun h1 h2 h4 => by rw [hinvalid a h1 h2 h4], fun h _ => by rw [h, hack], nofun⟩

/-! The caller and a transaction (R208, R214, R221). -/

/-- In a phase with a call the step is the engine's run. -/
theorem phaseStep_of_calls (s : State) (h : s.eng.phase.calls = true) : phaseStep s = runEngine enginePhases s := by
  cases hp : s.eng.phase <;> simp [hp, Phase.calls] at h <;> simp only [phaseStep, hp]

/-- Settles O46: neither caller resets, so both steps are the engine's run, which is the same for every caller. -/
theorem nothingInterruptsATransaction : Obligations.NothingInterruptsATransaction := by
  intro s s' c hc hs hc' h
  rw [step_eq_phaseStep s hs, phaseStep_of_calls s hc] at h
  calc
    step (s.setCaller c) = runEngine enginePhases (s.setCaller c) :=
      (step_eq_phaseStep (s.setCaller c) hc').trans (phaseStep_of_calls (s.setCaller c) hc)
    _ = withCaller c (runEngine enginePhases s) := runEngine_setCaller c enginePhases s
    _ = .next (s'.setCaller c) := by rw [h, withCaller_next]

/-- Settles O48: `step` in FAILED is `failedStep`, which looks for a take. -/
theorem failureIsReportedUnchanged : Obligations.FailureIsReportedUnchanged := by
  intro s e hp he
  have hstep (hc : s.caller.commands.head? ≠ some .reset) : step s = failedStep s := by
    rw [step_eq_phaseStep s hc, phaseStep, hp]
  refine ⟨fun cs hc => ?_, fun ht hreset => ?_⟩
  · simp only [hstep (by simp [hc]), failedStep, he, hc]
    rfl
  · simp only [hstep hreset, failedStep, he]
    split
    · next rest hc => simp [hc] at ht
    · rfl

end Sys2Proof.Machine
end

section
/-! PROOFS. The reset and hazards family (70_reset_and_hazards.md R230 to R249): what the reset input leaves, what a call that has not
returned does to its phase and to a whole request, what a reset in mid-transaction finds of the frame, and that a transaction whose
calls return ends in its Response. -/

namespace Sys2Proof.Machine

/-! The reset input (R231). -/

theorem step_of_reset (s : State) (cs : List Command) (h : s.caller.commands = .reset :: cs) :
    step s = .next (s.setCommands cs).resetBlock := by
  simp only [step, runStep, h]

/-- Settles O50: the reset input is looked at first, whatever the phase. -/
theorem resetInputClearsTheBlockOnly : Obligations.ResetInputClearsTheBlockOnly := step_of_reset

/-! A call that has not returned, in its phase (R246; log 29). -/

/-- The call that a phase makes for `r`: a `Queue` of its row, or a `Capture` of queued positions that ends where the phase's does. -/
def State.MakesCall (s : State) (r : Request) (c : CallResult) : Prop :=
  (s.eng.phase.captures = false ∧
    ∃ v n, r.phaseBits s.eng.phase = bitsOf v n ∧ c = queueCall v n s.tr) ∨
  (s.eng.phase.captures = true ∧ r.phaseBits s.eng.phase = [] ∧
    ∃ ackOff off n, s.eng.ackOff = some ackOff ∧ off + n = ackOff + s.eng.phase.captureEnd ∧ off + n ≤ s.tr.mem.out.length ∧
      c = captureCall off n s.tr)

/-- In the invariant a phase with a call makes the call of its row (R143, R147 to R155). -/
theorem tick_makesCall (s : State) (r : Request) (h : s.Inv) (hr : s.req = some r) (hc : s.eng.phase.calls = true) :
    ∃ c go, tick s = .next (s.afterCall c go) ∧ s.MakesCall r c ∧ ∀ v s', (go v s').tr = s'.tr := by
  obtain ⟨-, hb, hp, -, -⟩ := id h
  obtain ⟨d, p, hv⟩ := dataPhaseValues_of_built r (hb r hr)
  obtain ⟨hdata, hpar⟩ := phaseBits_of_dataPhaseValues r d p (hb r hr) hv
  unfold State.MakesCall
  cases hph : s.eng.phase <;> simp only [State.PhaseInv, hph] at hp hc
  case idle | classify | done | failed => cases hc
  case qHdr => exact ⟨_, _, tick_qHdr s r hph hr, .inl ⟨rfl, _, _, rfl, rfl⟩, fun _ _ => rfl⟩
  case qAck => exact ⟨_, _, tick_qAck s hph, .inl ⟨rfl, _, _, rfl, rfl⟩, fun _ _ => rfl⟩
  case qData => exact ⟨_, _, tick_qData s r d p hph hr hv, .inl ⟨rfl, _, _, hdata, rfl⟩, fun _ _ => rfl⟩
  case qPar => exact ⟨_, _, tick_qPar s r d p hph hr hv, .inl ⟨rfl, _, _, hpar, rfl⟩, fun _ _ => rfl⟩
  case cAck =>
    obtain ⟨-, -, off, ho, hl⟩ := hp
    exact ⟨_, _, tick_cAck s r off hph hr ho, .inr ⟨rfl, rfl, off, off, 3, ho, rfl, by omega, rfl⟩, fun _ _ => rfl⟩
  case cData =>
    obtain ⟨-, -, -, off, ho, hl⟩ := hp
    exact ⟨_, _, tick_cData s off hph ho, .inr ⟨rfl, rfl, off, off + 3, 32, ho, rfl, by omega, rfl⟩, fun _ _ => rfl⟩
  case cPar =>
    obtain ⟨-, -, -, -, off, ho, hl⟩ := hp
    exact ⟨_, _, tick_cPar s off hph ho, .inr ⟨rfl, rfl, off, off + 3 + 32, 1, ho, rfl, by omega, rfl⟩, fun _ _ => rfl⟩

/-- The transport while the call of the phase has not returned and the answer says what it has done since (log 29). -/
def State.whileWaiting (s : State) (r : Request) (q c : Nat) : Transport :=
  if s.eng.phase.captures then s.tr.answered.clockSome (s.eng.ackOff.getD 0 + s.eng.phase.captureEnd) c
  else s.tr.answered.queueSome (r.phaseBits s.eng.phase) q

/-- A phase whose call has not returned only lets the transport work (R246). -/
theorem tick_pending (s : State) (r : Request) (q c : Nat) (h : s.Inv) (hr : s.req = some r) (hc : s.eng.phase.calls = true)
    (ha : s.tr.nextAnswer = .pending q c) : tick s = .next (s.setTr (s.whileWaiting r q c)) := by
  obtain ⟨call, go, ht, hcall, -⟩ := tick_makesCall s r h hr hc
  rw [ht, State.whileWaiting]
  rcases hcall with ⟨hcap, v, n, hbits, rfl⟩ | ⟨hcap, -, ackOff, off, n, ho, hend, -, rfl⟩
  · rw [queueCall_pending v n q c s.tr ha, hbits, hcap]
    rfl
  · rw [captureCall_pending off n q c s.tr ha, hend, ho, hcap]
    rfl

/-- A capture phase queues nothing (R143). -/
theorem Request.phaseBits_of_captures (r : Request) (p : Phase) (h : p.captures = true) : r.phaseBits p = [] := by
  cases p <;> simp [Phase.captures] at h <;> rfl

/-- What a waiting phase has placed: the next positions of its row. -/
theorem State.whileWaiting_out (s : State) (r : Request) (q c : Nat) :
    (s.whileWaiting r q c).mem.out = s.tr.mem.out ++ ((r.phaseBits s.eng.phase).drop s.tr.progress.queued).take q := by
  unfold State.whileWaiting
  split
  case isTrue hcap => simp [r.phaseBits_of_captures _ hcap]
  case isFalse => rw [Transport.queueSome_out]; rfl

theorem State.whileWaiting_answers (s : State) (r : Request) (q c : Nat) :
    (s.whileWaiting r q c).answers = s.tr.answers.tail := by
  unfold State.whileWaiting
  split <;> simp

/-- A waiting queue phase shifts no bit in and does not use the wire (R56). -/
theorem State.whileWaiting_of_queue (s : State) (r : Request) (q c : Nat) (hcap : s.eng.phase.captures = false) :
    (s.whileWaiting r q c).mem.shifted = s.tr.mem.shifted ∧ (s.whileWaiting r q c).wire = s.tr.wire := by
  rw [State.whileWaiting, if_neg (by simp [hcap])]
  exact ⟨rfl, rfl⟩

/-- A waiting capture phase clocks the next pending positions, if it has any to clock (R56). -/
theorem State.whileWaiting_clocked (s : State) (r : Request) (q c off : Nat) (hw : s.tr.mem.wf = true)
    (hcap : s.eng.phase.captures = true) (ho : s.eng.ackOff = some off) :
    (s.whileWaiting r q c).mem.clocked =
      if s.tr.progress.clocking = true ∨ s.tr.mem.clocked < off + s.eng.phase.captureEnd then
        min (s.tr.mem.clocked + c) s.tr.mem.out.length
      else s.tr.mem.clocked := by
  rw [State.whileWaiting, if_pos hcap, ho]
  exact Transport.clockSome_clocked _ c s.tr.answered hw

/-- Without an answer the call is waiting and does nothing (log 8). -/
theorem State.whileWaiting_of_no_answer (s : State) (r : Request) (ha : s.tr.answers = []) : s.whileWaiting r 0 0 = s.tr := by
  have hans : s.tr.answered = s.tr := by rw [Transport.answered, ha, List.tail_nil, ← ha]
  unfold State.whileWaiting
  split <;> simp [hans]

/-- Settles O29: `tick_pending`, and of the transport what the lemmas about `whileWaiting` say. -/
theorem pendingCallHoldsThePhase : Obligations.PendingCallHoldsThePhase := by
  intro s r h hr hc
  refine ⟨fun ha => ?_, fun q c rest ha => ?_⟩
  · have ht := tick_pending s r 0 0 h hr hc (by simp [Transport.nextAnswer, ha])
    rwa [s.whileWaiting_of_no_answer r ha] at ht
  · have ht := tick_pending s r q c h hr hc (by simp [Transport.nextAnswer, ha])
    obtain ⟨-, -, hgrew, -⟩ := tick_kept s _ ht
    obtain ⟨hw, -⟩ := id h
    exact ⟨_, ht, by rw [s.whileWaiting_answers, ha, List.tail_cons], hgrew.wf hw, s.whileWaiting_out r q c,
      (List.prefix_iff_eq_take.mp hgrew.shifted).symm, s.whileWaiting_of_queue r q c, fun off => s.whileWaiting_clocked r q c off hw⟩

/-! A call that has not returned, in a whole request (R246). -/

/-- A run of the engine ends where a call has not returned. -/
theorem runEngine_of_waiting (k : Nat) (s : State) (t : Transport) (ht : tick s = .next (s.setTr t)) :
    runEngine (k + 1) s = .next (s.setTr t) := by
  simp [runEngine, ht]

/-- In the invariant a Request is latched and no Response presented while the engine is making its calls (R143, R145). -/
theorem State.Inv.of_calls {s : State} (h : s.Inv) (hc : s.eng.phase.calls = true) :
    (∃ r, s.req = some r) ∧ s.response = none := by
  obtain ⟨-, -, hp, -, -⟩ := h
  rw [← Option.isSome_iff_exists]
  cases hph : s.eng.phase <;> simp only [State.PhaseInv, hph] at hp hc
  case idle | classify | done | failed => cases hc
  case qHdr | qAck => exact hp
  case qData | qPar | cAck | cData | cPar =>
    obtain ⟨hreq, hresp, -⟩ := hp
    exact ⟨hreq, hresp⟩

/-- How many positions of the frame the first `k` calls of a request queue (R147 to R151). -/
abbrev queuedBefore (k : Nat) : Nat := [0, 8, 11, 43].getD k 44

/-- Call `k` is a `Queue` below four and a `Capture` from there on; it is followed by the successor's. -/
theorem callPhases_spec (dir : Direction) (k : Nat) (p : Phase) (h : (callPhases dir)[k]? = some p) :
    p.calls = true ∧ p.captures = decide (4 ≤ k) ∧
      (k + 1 < callsOf dir → (callPhases dir)[k + 1]? = some (successor dir p)) := by
  obtain ⟨hk, rfl⟩ := List.getElem?_eq_some_iff.mp h
  clear h
  revert k
  cases dir <;> decide

/-- The row of call `k` is what the frame has between the calls before it and the calls up to it (R86). -/
theorem frameBits_take_succ (r : Request) (k : Nat) (p : Phase) (hb : r.built = true) (hp : (callPhases r.dir)[k]? = some p) :
    (frameBits r).take (queuedBefore k) ++ r.phaseBits p = (frameBits r).take (queuedBefore (k + 1)) := by
  have hrow : r.rows[k]?.toList.flatten = r.phaseBits p := by
    rcases Nat.lt_or_ge k 4 with hqueue | hcapture
    · have hrows : r.rows = ((callPhases r.dir).take 4).map r.phaseBits := by cases r.dir <;> rfl
      simp [hrows, List.getElem?_take_of_lt hqueue, hp]
    · obtain ⟨-, hcap, -⟩ := callPhases_spec r.dir k p hp
      rw [List.getElem?_eq_none hcapture, r.phaseBits_of_captures p (by simp [hcap, hcapture])]
      rfl
  rw [← r.flatten_take_rows hb, ← r.flatten_take_rows hb, List.take_add_one, List.flatten_append, hrow]

/-- The first positions of that row are the next ones of the frame. -/
theorem frameBits_take_row (r : Request) (k q : Nat) (p : Phase) (hb : r.built = true) (hp : (callPhases r.dir)[k]? = some p) :
    (frameBits r).take (queuedBefore k) ++ (r.phaseBits p).take q =
      (frameBits r).take (min (queuedBefore k + q) (queuedBefore (k + 1))) := by
  have hle : queuedBefore k ≤ 44 := by rcases k with _ | _ | _ | _ | k <;> simp [queuedBefore]
  have hlen : ((frameBits r).take (queuedBefore k)).length = queuedBefore k := by simpa using hle
  rw [← List.take_take, ← frameBits_take_succ r k p hb hp]
  generalize (frameBits r).take (queuedBefore k) = front at hlen ⊢
  rw [← hlen, List.take_append, List.take_of_length_le (Nat.le_add_right ..), Nat.add_sub_cancel_left]

/-- A transaction of `r`, begun on the transport `t`, that has come to its call `k` with every call before it returned: nothing is
clocked before the first capture, which is call 4 and lies behind all that was clocked; after it all that is queued is clocked (R56). -/
structure State.AtCall (r : Request) (t : Transport) (k : Nat) (answers : List Answer) (s : State) : Prop
    extends s.AtPhase r s.eng.phase (t.mem.out ++ (frameBits r).take (queuedBefore k)) answers where
  row : (callPhases r.dir)[k]? = some s.eng.phase
  err : s.eng.err = none
  unclocked : k ≤ 4 → s.tr.mem.shifted = t.mem.shifted
  behind : ∀ off, s.eng.ackOff = some off → t.mem.clocked ≤ off
  clocked : 4 < k → s.tr.mem.clocked = s.tr.mem.out.length

/-- How far a capture phase whose call returns has clocked the bus (R56). -/
theorem tick_returns_clocked (s s' : State) (r : Request) (rest : List Answer) (h : s.Inv) (hr : s.req = some r)
    (ha : s.tr.answers = .returns :: rest) (hc : s.eng.phase.calls = true) (hcap : s.eng.phase.captures = true)
    (ht : tick s = .next s') :
    ∃ off, s.eng.ackOff = some off ∧ s'.tr.mem.clocked =
      if s.tr.progress.clocking = true ∨ s.tr.mem.clocked < off + s.eng.phase.captureEnd then s.tr.mem.out.length
      else s.tr.mem.clocked := by
  obtain ⟨call, go, htick, hcall, hgo⟩ := tick_makesCall s r h hr hc
  obtain ⟨hw, -⟩ := h
  rcases hcall with ⟨hn, -⟩ | ⟨-, -, ackOff, off, n, ho, hend, hq, rfl⟩
  · simp [hcap] at hn
  · rw [captureCall_returns off n s.tr rest ha hq, State.afterCall_returned] at htick
    cases htick.symm.trans ht
    refine ⟨ackOff, ho, ?_⟩
    rw [hgo, ← hend]
    exact Transport.sync_length (off + n) { s.tr with answers := rest } hw

theorem Phase.captureEnd_pos (p : Phase) (h : p.captures = true) : 0 < p.captureEnd := by
  cases p <;> simp [Phase.captures] at h <;> decide

/-- The offset latched by `Q_ACK` lies behind all that is clocked (R51, R148). -/
theorem State.AtCall.tick_behind {s s' : State} {r : Request} {t : Transport} {k : Nat} {rest : List Answer}
    (h : s.AtCall r t k (.returns :: rest)) (hw : t.mem.wf = true) (ht : tick s = .next s') (off : Nat)
    (ho : s'.eng.ackOff = some off) : t.mem.clocked ≤ off := by
  by_cases hq : s.eng.phase = .qAck
  · obtain ⟨s₁, ht₁, -, -, -, -, -, hoff, -⟩ :=
      phaseCallsFillTheirLatches s r rest h.inv h.req h.answers (by rw [hq]; rfl)
    cases ht₁.symm.trans ht
    cases (hoff hq).symm.trans ho
    rw [h.progress, h.mem_out, Progress.none_queued, Nat.sub_zero, List.length_append]
    exact ((Memory.wf_iff _).mp hw).trans (Nat.le_add_right ..)
  · exact h.behind off (tick_keeps_ackOff s s' ht hq ▸ ho)

/-- The first capture ends behind all that is clocked, so it has positions to clock (R56). -/
theorem State.AtCall.first_capture {s : State} {r : Request} {t : Transport} {answers : List Answer} (h : s.AtCall r t 4 answers)
    (off : Nat) (ho : s.eng.ackOff = some off) : s.tr.mem.clocked < off + s.eng.phase.captureEnd := by
  obtain ⟨-, hcap, -⟩ := callPhases_spec r.dir 4 _ h.row
  have hbehind := h.behind off ho
  rw [Memory.clocked, ← h.unclocked (le_refl 4)] at hbehind
  exact hbehind.trans_lt (Nat.lt_add_of_pos_right (s.eng.phase.captureEnd_pos hcap))

/-- A call that returns leads to the next call. -/
theorem State.AtCall.tick_next {s : State} {r : Request} {t : Transport} {k : Nat} {rest : List Answer}
    (h : s.AtCall r t k (.returns :: rest)) (hw : t.mem.wf = true) (hk : k + 1 < callsOf r.dir) :
    ∃ s', tick s = .next s' ∧ s'.eng.phase ≠ s.eng.phase ∧ s'.AtCall r t (k + 1) rest := by
  obtain ⟨hcalls, hcap, hnext⟩ := callPhases_spec r.dir k _ h.row
  obtain ⟨s', ht, h'⟩ := tick_returns s r rest h.inv h.req h.answers hcalls
  obtain ⟨-, -, -, -, -, -, -, hwire, -, -, -, -, -, -, -, -, -, herr⟩ := phaseFrame s s' ht
  have hmoves : s'.eng.phase ≠ s.eng.phase := h'.phase ▸ successor_ne r.dir _ hcalls
  have hrow : (callPhases r.dir)[k + 1]? = some s'.eng.phase := h'.phase ▸ hnext hk
  have hrunning : s'.eng.phase ≠ .failed := fun hf => by simpa [hf, Phase.calls] using callPhases_spec r.dir _ _ hrow
  have hb : r.built = true := by
    obtain ⟨-, hb, -⟩ := h.inv
    exact hb r h.req
  have hout : s'.tr.mem.out = t.mem.out ++ (frameBits r).take (queuedBefore (k + 1)) := by
    rw [h'.mem_out, h.mem_out, h.progress, Progress.none_queued, List.drop_zero, List.append_assoc,
      frameBits_take_succ r k _ hb h.row]
  refine ⟨s', ht, hmoves, ⟨h'.inv, h'.req, rfl, hout, h'.answers, h'.progress⟩, hrow, (herr hrunning).trans h.err, fun hle => ?_,
    h.tick_behind hw ht, fun hlt => ?_⟩
  · obtain ⟨hshifted, -⟩ := hwire (by simp [hcap]; omega)
    rw [hshifted, h.unclocked (by omega)]
  · obtain ⟨off, ho, hclocked⟩ := tick_returns_clocked s s' r rest h.inv h.req h.answers hcalls (by simp [hcap]; omega) ht
    have hsame : s'.tr.mem.out = s.tr.mem.out := by
      simp [h'.mem_out, r.phaseBits_of_captures s.eng.phase (by simp [hcap]; omega)]
    rw [hclocked, hsame]
    rcases (by omega : 4 < k ∨ k = 4) with hlater | rfl
    · rw [h.clocked hlater, ite_self]
    · exact if_pos (.inr (h.first_capture off ho))

/-- How far the bus is clocked while call `k` waits: no call before the first capture clocks it, and none after it has more to clock. -/
theorem State.AtCall.whileWaiting_clocked {s : State} {r : Request} {t : Transport} {k : Nat} {answers : List Answer}
    (h : s.AtCall r t k answers) (q c : Nat) :
    (s.whileWaiting r q c).mem.clocked =
      if k < 4 then t.mem.clocked
      else if k = 4 then min (t.mem.clocked + c) (s.whileWaiting r q c).mem.out.length
      else (s.whileWaiting r q c).mem.out.length := by
  obtain ⟨hcalls, hcap, -⟩ := callPhases_spec r.dir k _ h.row
  obtain ⟨hw, -⟩ := h.inv
  rcases Nat.lt_or_ge k 4 with hqueue | hcapture
  · obtain ⟨hshifted, -⟩ := s.whileWaiting_of_queue r q c (by simp [hcap, hqueue])
    rw [if_pos hqueue, Memory.clocked, hshifted, h.unclocked (by omega)]
  · have hcap : s.eng.phase.captures = true := by simp [hcap, hcapture]
    obtain ⟨call, -, -, hcall, -⟩ := tick_makesCall s r h.inv h.req hcalls
    obtain ⟨off, ho⟩ : ∃ off, s.eng.ackOff = some off := by
      rcases hcall with ⟨hn, -⟩ | ⟨-, -, off, -, -, ho, -⟩
      · simp [hcap] at hn
      · exact ⟨off, ho⟩
    have hout : (s.whileWaiting r q c).mem.out = s.tr.mem.out := by
      simp [s.whileWaiting_out, r.phaseBits_of_captures s.eng.phase hcap]
    rw [if_neg (Nat.not_lt.mpr hcapture), s.whileWaiting_clocked r q c off hw hcap ho, hout]
    rcases (by omega : 4 < k ∨ k = 4) with hlater | rfl
    · rw [if_neg hlater.ne', h.clocked hlater, Nat.min_eq_right (Nat.le_add_right ..), ite_self]
    · rw [if_pos (.inr (h.first_capture off ho)), if_pos rfl, Memory.clocked, h.unclocked (le_refl 4)]

/-- A `send` makes no more calls than the engine has phases. -/
theorem enginePhases_sub (dir : Direction) (k : Nat) (hk : k < callsOf dir) : enginePhases - k = enginePhases - (k + 1) + 1 := by
  have hcalls : callsOf dir ≤ 7 := by cases dir <;> decide
  rw [enginePhases]
  omega

/-- With the calls before it returning, a `send` comes to its call `k`, and its run goes on from there. -/
theorem sendBuilt_atCall (r : Request) (s : State) (k : Nat) (answers : List Answer) (hb : r.built = true)
    (hw : s.tr.mem.wf = true) (hk : k < callsOf r.dir) (ha : s.tr.answers = List.replicate k .returns ++ answers) :
    ∃ s', sendBuilt { s with req := some r } = runEngine (enginePhases - k) s' ∧ s'.AtCall r s.tr k answers := by
  induction k generalizing answers with
  | zero =>
    refine ⟨_, rfl, ⟨State.begin_inv { s with req := some r } r hw rfl hb, rfl, rfl, ?_, ha, rfl⟩, ?_, rfl, fun _ => rfl, nofun, nofun⟩
    · simp
    · cases r.dir <;> rfl
  | succ k ih =>
    rw [List.replicate_succ', List.append_assoc] at ha
    obtain ⟨s₁, hrun, h₁⟩ := ih _ (by omega) ha
    obtain ⟨s', ht, hmoves, h'⟩ := h₁.tick_next hw hk
    exact ⟨s', by rw [hrun, enginePhases_sub r.dir k (by omega), runEngine_move _ s₁ s' ht hmoves], h'⟩

/-- Settles O36: the request comes to its call `k`, whose phase then waits. -/
theorem unansweredCallHoldsTheRequest : Obligations.UnansweredCallHoldsTheRequest := by
  intro i r s k q c tail hi hp hw hk htail ha
  have hb := requestOf_built i r hi
  obtain ⟨s₁, hrun, h₁⟩ := sendBuilt_atCall r s k tail hb hw hk ha
  obtain ⟨hcalls, -⟩ := callPhases_spec r.dir k _ h₁.row
  obtain ⟨-, hresp⟩ := h₁.inv.of_calls hcalls
  have hans : s₁.tr.nextAnswer = .pending q c := by
    rw [Transport.nextAnswer, h₁.answers]
    rcases htail with ⟨rfl, rfl, rfl⟩ | ⟨rest, rfl⟩ <;> rfl
  have ht := tick_pending s₁ r q c h₁.inv h₁.req hcalls hans
  rw [enginePhases_sub r.dir k hk, runEngine_of_waiting _ s₁ _ ht] at hrun
  obtain ⟨hreq, hcaller, hgrew, -⟩ := runEngine_kept enginePhases (State.begin { s with req := some r }) _ r rfl hrun
  have hout : (s₁.whileWaiting r q c).mem.out = s.tr.mem.out ++
      (frameBits r).take (min (queuedBefore k + q) (queuedBefore (k + 1))) := by
    rw [s₁.whileWaiting_out, h₁.mem_out, h₁.progress, Progress.none_queued, List.drop_zero, List.append_assoc,
      frameBits_take_row r k q _ hb h₁.row]
  refine ⟨_, (exec_of_requestOf s i r hi hp).trans hrun, h₁.row.symm, h₁.err, hresp, hreq, hcaller,
    by rw [State.setTr_tr, s₁.whileWaiting_answers, h₁.answers], hout, hgrew.shifted,
    h₁.whileWaiting_clocked q c⟩

/-! What a reset in mid-transaction finds (R231). -/

/-- Settles O60: the request waits in C_ACK having clocked `m` positions, or in Q_HDR having queued `m`, and the reset leaves them. -/
theorem resetFindsNonePartOrAllOfTheFrame : Obligations.ResetFindsNonePartOrAllOfTheFrame := by
  intro i r s cs hi hp hw hc
  have hstep (s₁ : State) (hcaller : s₁.caller = s.caller) : step s₁ = .next (s₁.setCommands cs).resetBlock :=
    step_of_reset s₁ cs (by rw [hcaller, hc])
  refine ⟨fun m hm => ?_, fun m hm => ?_⟩
  · obtain ⟨s₁, hrun, hph, -, -, -, hcaller, -, hout, -, hclocked⟩ := unansweredCallHoldsTheRequest i r
      { s with tr := { s.tr with answers := List.replicate 4 .returns ++ [.pending 0 m] } } 4 0 m [.pending 0 m] hi hp hw
      (by cases r.dir <;> decide) (.inr ⟨_, rfl⟩) rfl
    have hframe : s₁.tr.mem.out = s.tr.mem.out ++ frameBits r := by
      rw [hout]
      exact congrArg _ (List.take_of_length_le (frameBits_length r).le)
    refine ⟨_, s₁, _, hrun, ?_, hstep s₁ hcaller, rfl, rfl, rfl, hframe, ?_⟩
    · have hrow : (callPhases r.dir)[4]? = some .cAck := by cases r.dir <;> rfl
      exact Option.some.inj (hph.trans hrow)
    · refine hclocked.trans (Nat.min_eq_left ?_)
      simpa [hframe] using hm
  · obtain ⟨s₁, hrun, hph, -, -, -, hcaller, -, hout, hprefix, hclocked⟩ := unansweredCallHoldsTheRequest i r
      { s with tr := { s.tr with answers := [.pending m 0] } } 0 m 0 [.pending m 0] hi hp hw
      (by cases r.dir <;> decide) (.inr ⟨_, rfl⟩) rfl
    refine ⟨_, s₁, _, hrun, ?_, hstep s₁ hcaller, rfl, rfl, rfl, ?_, (hprefix.eq_of_length hclocked.symm).symm⟩
    · have hrow : (callPhases r.dir)[0]? = some .qHdr := by cases r.dir <;> rfl
      exact Option.some.inj (hph.trans hrow)
    · simpa [Nat.min_eq_left hm] using hout

/-! A transaction in progress (R142 to R144, R246, R249). -/

/-- How many phases a transaction has still to run from a phase on. -/
def Phase.phasesLeft (dir : Direction) : Phase → Nat
  | .qHdr => callsOf dir + 1
  | .qAck => callsOf dir
  | .qData => callsOf dir - 1
  | .qPar => callsOf dir - 2
  | .cAck => callsOf dir - 3
  | .cData => 3
  | .cPar => 2
  | .classify => 1
  | .idle | .done | .failed => 0

/-- The phases of the engine that have something to run: those with a call, and CLASSIFY. -/
theorem Phase.phasesLeft_pos_iff (dir : Direction) (p : Phase) : 0 < p.phasesLeft dir ↔ p.calls = true ∨ p = .classify := by
  cases dir <;> cases p <;> decide

theorem Phase.phasesLeft_lt (dir : Direction) (p : Phase) : p.phasesLeft dir < enginePhases := by
  cases dir <;> cases p <;> decide

/-- A phase that has gone well leaves one phase less to run. -/
theorem Phase.phasesLeft_successor (dir : Direction) (p : Phase) : (successor dir p).phasesLeft dir = p.phasesLeft dir - 1 := by
  cases dir <;> cases p <;> rfl

/-- All phases still to run but the last, which is CLASSIFY, have a call (R143). -/
theorem Phase.calls_to_classify (dir : Direction) (n : Nat) (p : Phase) (h : p.phasesLeft dir = n + 1) :
    (successor dir)^[n] p = .classify ∧ ∀ q ∈ List.iterate (successor dir) p n, q.calls = true := by
  have hrun : p.calls = true ∨ p = .classify := (p.phasesLeft_pos_iff dir).mp (by omega)
  induction n generalizing p with
  | zero =>
    refine ⟨?_, by simp [List.iterate]⟩
    cases dir <;> cases p <;> simp [Phase.phasesLeft, callsOf] at h ⊢
  | succ n ih =>
    have hnext : (successor dir p).phasesLeft dir = n + 1 := by rw [p.phasesLeft_successor, h]; rfl
    obtain ⟨hend, hcalls⟩ := ih _ hnext ((Phase.phasesLeft_pos_iff dir _).mp (by omega))
    have hcall : p.calls = true := hrun.resolve_right (by rintro rfl; simp [Phase.phasesLeft] at h)
    exact ⟨hend, by simpa [List.iterate, hcall] using hcalls⟩

theorem Phase.phasesLeft_eq_zero (dir : Direction) (p : Phase) (h : p.phasesLeft dir = 0) : p = .idle ∨ p = .done ∨ p = .failed := by
  cases p
  case idle => exact .inl rfl
  case done => exact .inr (.inl rfl)
  case failed => exact .inr (.inr rfl)
  all_goals cases dir <;> simp [Phase.phasesLeft, callsOf] at h

/-- A phase either stays as it is or leaves fewer phases to run. -/
theorem tick_phasesLeft (s s' : State) (r : Request) (hr : s.req = some r) (ht : tick s = .next s')
    (hp : s'.eng.phase ≠ s.eng.phase) : s'.eng.phase.phasesLeft r.dir < s.eng.phase.phasesLeft r.dir := by
  have hpos : 0 < s.eng.phase.phasesLeft r.dir := Nat.pos_of_ne_zero fun h0 => by
    cases (tick_waits s (Phase.phasesLeft_eq_zero r.dir _ h0)).symm.trans ht
    exact hp rfl
  rcases phasesFollowTheTable s s' r hr ht with hnext | ⟨-, hfailed | hsame⟩
  · rw [hnext, Phase.phasesLeft_successor]
    omega
  · rwa [hfailed]
  · exact absurd hsame hp

/-- More fuel than there are phases to run changes nothing. -/
theorem runEngine_fuel (k : Nat) (s : State) (r : Request) (h : s.Inv) (hr : s.req = some r)
    (hk : s.eng.phase.phasesLeft r.dir ≤ k) : runEngine (k + 1) s = runEngine k s := by
  induction k generalizing s with
  | zero =>
    have hwaits := Phase.phasesLeft_eq_zero r.dir _ (Nat.le_zero.mp hk)
    rw [runEngine_waits _ s hwaits, runEngine_waits _ s hwaits]
  | succ k ih =>
    obtain ⟨s', ht, h'⟩ := tick_keepsInv s h
    by_cases hp : s'.eng.phase = s.eng.phase
    · simp [runEngine, ht, hp]
    · have hless := tick_phasesLeft s s' r hr ht hp
      obtain ⟨hreq, -⟩ := tick_kept s s' ht
      rw [runEngine_move _ s s' ht hp, runEngine_move _ s s' ht hp, ih s' h' (hreq.trans hr) (by omega)]

/-- In CLASSIFY the Response presented is what the latches classify to (R156, R186, R187). -/
theorem tick_classifies (s : State) (r : Request) (h : s.Inv) (hr : s.req = some r) (hp : s.eng.phase = .classify) :
    ∃ a resp, tick s = .next (s.present resp) ∧ s.eng.ack = some a ∧ (r.dir = .write → resp = classifyWrite a) ∧
      (r.dir = .read → ∃ d p, s.eng.data = some d ∧ s.eng.par = some p ∧ resp = classifyRead a d p) := by
  obtain ⟨-, -, hph, -, -⟩ := h
  simp only [State.PhaseInv, hp] at hph
  obtain ⟨-, ha, q, hq, hrd⟩ := hph
  cases hr.symm.trans hq
  obtain ⟨a, ha⟩ := Option.isSome_iff_exists.mp ha
  cases hd : r.dir with
  | write => exact ⟨a, _, tick_classify_write s r a hp hr hd ha, ha, fun _ => rfl, nofun⟩
  | read =>
    obtain ⟨hdata, hpar⟩ := hrd hd
    obtain ⟨d, hdata⟩ := Option.isSome_iff_exists.mp hdata
    obtain ⟨p, hpar⟩ := Option.isSome_iff_exists.mp hpar
    exact ⟨a, _, tick_classify_read s r a d p hp hr hd ha hdata hpar, ha, nofun, fun _ => ⟨d, p, hdata, hpar, rfl⟩⟩

/-- CLASSIFY is the last phase the engine runs. -/
theorem runEngine_of_presents (k : Nat) (s : State) (resp : Response) (hp : s.eng.phase = .classify)
    (ht : tick s = .next (s.present resp)) : runEngine (k + 1) s = .next (s.present resp) := by
  rw [runEngine_move k s _ ht (by simp [hp]), runEngine_waits k _ (.inr (.inl rfl))]

/-- Without the reset input, a step in a phase that has something to run is the engine's run. -/
theorem step_eq_runEngine (s : State) (h : s.Inv) (hp : s.eng.phase.calls = true ∨ s.eng.phase = .classify)
    (hreset : s.caller.commands.head? ≠ some .reset) : step s = runEngine enginePhases s := by
  rw [step_eq_phaseStep s hreset]
  rcases hp with hcalls | hclassify
  · exact phaseStep_of_calls s hcalls
  · obtain ⟨resp, ht⟩ := tick_presents s h hclassify
    rw [phaseStep, hclassify]
    exact (classifyStep_eq_tick s hclassify).trans (ht.trans (runEngine_of_presents 8 s resp hclassify ht).symm)

/-- What follows a phase with a call has something to run. -/
theorem successor_runs (dir : Direction) (p : Phase) (h : p.calls = true) :
    (successor dir p).calls = true ∨ successor dir p = .classify := by
  cases dir <;> cases p <;> simp [Phase.calls, successor] at h ⊢

/-- A step in a phase with a call is that phase's `tick` if the call fails or waits, else the step from the next phase. -/
theorem step_of_calls (s s₁ : State) (h : s.Inv) (hc : s.eng.phase.calls = true)
    (hreset : s.caller.commands.head? ≠ some .reset) (ht : tick s = .next s₁) :
    step s = if s₁.eng.phase = s.eng.phase ∨ s₁.eng.phase = .failed then .next s₁ else step s₁ := by
  obtain ⟨⟨r, hr⟩, -⟩ := h.of_calls hc
  rw [step_eq_runEngine s h (.inl hc) hreset, enginePhases]
  by_cases hsame : s₁.eng.phase = s.eng.phase
  · simp [runEngine, ht, hsame]
  rw [runEngine_move 8 s s₁ ht hsame]
  by_cases hfailed : s₁.eng.phase = .failed
  · rw [if_pos (.inr hfailed), runEngine_waits 8 s₁ (.inr (.inr hfailed))]
  · have hnext : s₁.eng.phase = successor r.dir s.eng.phase :=
      (phasesFollowTheTable s s₁ r hr ht).resolve_right (by simp [hsame, hfailed])
    obtain ⟨s', ht', h₁⟩ := tick_keepsInv s h
    cases ht'.symm.trans ht
    obtain ⟨hreq, hcaller, -⟩ := tick_kept s s₁ ht
    have hleft : s₁.eng.phase.phasesLeft r.dir ≤ 8 := Nat.le_of_lt_succ (Phase.phasesLeft_lt r.dir _)
    rw [if_neg (by simp [hsame, hfailed]), step_eq_runEngine s₁ h₁ (hnext ▸ successor_runs r.dir _ hc) (hcaller ▸ hreset),
      enginePhases, runEngine_fuel 8 s₁ r h₁ (hreq.trans hr) hleft]

/-- A transaction whose calls return runs to CLASSIFY (R142, R143). -/
theorem runEngine_to_classify (s : State) (r : Request) (rest : List Answer) (h : s.Inv) (hc : s.eng.phase.calls = true)
    (hr : s.req = some r) (ha : s.tr.answers = List.replicate 7 .returns ++ rest) :
    ∃ k s', runEngine enginePhases s = runEngine (k + 1) s' ∧ s'.Inv ∧ s'.req = some r ∧ s'.eng.phase = .classify := by
  obtain ⟨s₁, ht, h₁⟩ := tick_returns s r (List.replicate 6 Answer.returns ++ rest) h hr ha hc
  obtain ⟨n, hn⟩ := Nat.exists_eq_succ_of_ne_zero
    ((Phase.phasesLeft_pos_iff r.dir _).mpr (successor_runs r.dir _ hc)).ne'
  have hle : n ≤ 6 := by
    have hlt : s.eng.phase.phasesLeft r.dir < 9 := Phase.phasesLeft_lt ..
    rw [Phase.phasesLeft_successor] at hn
    omega
  obtain ⟨hend, hcalls⟩ := Phase.calls_to_classify r.dir n _ hn
  have hsplit : List.replicate 6 Answer.returns ++ rest = List.replicate n .returns ++ (List.replicate (6 - n) .returns ++ rest) := by
    rw [← List.append_assoc, List.replicate_append_replicate, Nat.add_sub_cancel' hle]
  obtain ⟨s', hrun, h'⟩ := runEngine_returns (7 - n + 1) n s₁ r _ _ _ (hsplit ▸ h₁) hcalls
  have hfuel : enginePhases = 7 - n + 1 + n + 1 := by rw [enginePhases]; omega
  exact ⟨7 - n, s', by rw [hfuel, runEngine_move _ s s₁ ht (h₁.phase ▸ successor_ne r.dir _ hc), hrun], h'.inv, h'.req,
    h'.phase.trans hend⟩

/-- Settles O55: a step in progress is `step_of_calls`; with its calls returning it runs to CLASSIFY, which presents the Response. -/
theorem answeredTransactionsReachDone : Obligations.AnsweredTransactionsReachDone := by
  refine fun s h hc hreset => ⟨fun s₁ => step_of_calls s s₁ h hc hreset, fun r rest hr ha => ?_⟩
  obtain ⟨k, s', hrun, h', hreq, hp⟩ := runEngine_to_classify s r rest h hc hr ha
  obtain ⟨a, resp, ht, hack, hwrite, hread⟩ := tick_classifies s' r h' hreq hp
  exact ⟨s'.present resp, a, resp,
    (step_eq_runEngine s h (.inl hc) hreset).trans (hrun.trans (runEngine_of_presents k s' resp hp ht)), rfl, rfl, hreq, hack,
    hwrite, hread⟩

end Sys2Proof.Machine
end
